-- ==== Sys2Proof/Word.lean ====
section
/-! DEFINITION. The byte, the two word widths and the type of a byte array. -/

namespace Sys2Proof

/-- The byte: 8 bits, the addressable unit of `BUF`, `IN` and `OUT` (20_memory.md R51). -/
abbrev Byte := BitVec 8

/-- The word of SHA-1, SHA-224 and SHA-256 (40_word_arithmetic.md R110). -/
abbrev Word32 := BitVec 32

/-- The word of SHA-384 and SHA-512 (40_word_arithmetic.md R110). -/
abbrev Word64 := BitVec 64

/-- The 72-bit command word `CW[71:0]` (30_encoding.md R80). -/
abbrev CommandWord := BitVec 72

namespace Machine

/-- A byte array of the machine (`BUF`, `IN` or `OUT`; 20_memory.md R50): the pairs of an offset
and the byte there, offsets strictly rising, no pair whose byte is `Memory.unlisted`. -/
abbrev Memory := List Host.Cell

end Machine

end Sys2Proof
end

