-- ==== Sys2Proof/Machine/Memory.lean ====
section
/-! DEFINITION. Byte arrays: what an unlisted offset reads as, the canonical form, and `MemRead` and
`MemWrite` (00_scope.md R10). -/

namespace Sys2Proof.Machine

/-- What an unlisted offset reads as: the byte 0 (log entry 8). -/
abbrev Memory.unlisted : Byte := 0#8

/-- The canonical form: offsets strictly rising, no pair that says what an unlisted offset says. -/
abbrev Memory.wf (m : Memory) : Prop :=
  m.Pairwise (fun p q => p.1 < q.1) ∧ ∀ c ∈ m, c.2 ≠ Memory.unlisted

/-- Every listed offset is below `n`. -/
abbrev Memory.below (n : Nat) (m : Memory) : Prop := ∀ c ∈ m, c.1 < n

/-- The byte at an offset. -/
def Memory.read : Memory → Nat → Byte
  | [], _ => Memory.unlisted
  | (k, b) :: rest, a => if k = a then b else Memory.read rest a

/-- Put one pair at the head of an array, unless it says what an unlisted offset says. -/
def Memory.cons (a : Nat) (v : Byte) (m : Memory) : Memory :=
  if v = Memory.unlisted then m else (a, v) :: m

/-- The array with the byte at one offset replaced. -/
def Memory.write : Memory → Nat → Byte → Memory
  | [], a, v => Memory.cons a v []
  | (k, b) :: rest, a, v =>
    if a < k then Memory.cons a v ((k, b) :: rest)
    else if a = k then Memory.cons a v rest
    else (k, b) :: Memory.write rest a v

/-- `MemRead(space, a, n)`: the `n` bytes from offset `a` on (00_scope.md R10). -/
def Memory.readBytes (m : Memory) : Nat → Nat → List Byte
  | _, 0 => []
  | a, n + 1 => m.read a :: Memory.readBytes m (a + 1) n

/-- `MemWrite(space, a, n, v)`: the bytes `v` from offset `a` on, in ascending order (00_scope.md R10). -/
def Memory.writeBytes : Memory → Nat → List Byte → Memory
  | m, _, [] => m
  | m, a, b :: bs => Memory.writeBytes (m.write a b) (a + 1) bs

/-- The array whose every byte is 0: `BUF[0..B-1] <- ZEROS(B)` leaves it (41_streaming_engine.md R127). -/
def Memory.zeros : Memory := []

/-- `ZEROS(L)` as a byte string (00_scope.md R10). -/
def zeroBytes (length : Nat) : List Byte := List.replicate length 0#8

/-- The array that holds the given bytes from offset 0 on. -/
def Memory.ofBytes (bs : List Byte) : Memory := Memory.zeros.writeBytes 0 bs

end Sys2Proof.Machine
end

