-- ==== Sys2Proof/Config.lean ====
section
/-! DEFINITION. The five configurations by name, the parameter `LEN_RESERVE` as a type, and the
free values: constants without a body, so that nothing can be proved of what they are. -/

namespace Sys2Proof

/-- The closed set of five variants (00_scope.md R6, 46_selector_facade.md R238). -/
inductive Alg where
  | sha1
  | sha224
  | sha256
  | sha384
  | sha512
deriving DecidableEq, Repr

namespace Config

/-- The parameter `LEN_RESERVE`, a function of the block size `B` (00_scope.md R13). -/
abbrev LenReserve := Nat → Nat

/-- The values the spec allows the parameter (92_eei_decisions.md D14): 8 for `B = 64`, 8 or 16 for
`B = 128`. -/
abbrev LenReserve.Legal (lr : LenReserve) : Prop := lr 64 = 8 ∧ (lr 128 = 8 ∨ lr 128 = 16)

/-! Free values (log entries 5, 6, 7 and 26). The first argument is the draw, the state's `freeCtr`, but for
`freeLength`. That a value depends on the draw alone, and so is the same in two instances or two histories with
equal draws, is the model's choice (DESIGN CHOICE, log entry 16). -/

/-- The value of `fill` where the spec leaves it unspecified (10_state.md R24, R38, R39). -/
opaque freeFill : Nat → Nat

/-- The value of `count` where the spec leaves it unspecified (10_state.md R38, R39). -/
opaque freeCount : Nat → BitVec 64

/-- Word `i` of a 32-bit `H` where the spec leaves it unspecified (10_state.md R38, R39). -/
opaque freeWord32 : Nat → Nat → Word32

/-- Word `i` of a 64-bit `H` where the spec leaves it unspecified (10_state.md R38, R39). -/
opaque freeWord64 : Nat → Nat → Word64

/-- Byte `i` of `BUF` where the spec leaves it unspecified (10_state.md R38, R39). -/
opaque freeByte : Nat → Nat → Byte

/-- The length field of a bit length that 64 bits cannot hold, where the spec states no value
(40_word_arithmetic.md R118; log entry 26). The argument is the bit length. -/
opaque freeLength : Nat → BitVec 64

/-- The stored 3-bit code of `alg` after a reset, where the spec leaves it unspecified (10_state.md R39). -/
opaque freeAlgCode : Nat → BitVec 3

/-- The bit `RES` after a reset, where the spec leaves it unspecified (10_state.md R39). -/
opaque freeRes : Nat → BitVec 1

end Config

end Sys2Proof
end

