-- ==== Sys2Proof/Syntax.lean ====
section
/-! DEFINITION. The instructions: one constructor per row of spec/opcode_table.json, the eight host
commands and the nine micro-operations of the sequencer. -/

namespace Sys2Proof

/-- A command of the host, or a micro-operation of the sequencer (30_encoding.md R83, R86). -/
inductive Instr where
  /-- `SELECT.SHA1` (46_selector_facade.md R230). -/
  | selectSha1
  /-- `SELECT.SHA224` (R230). -/
  | selectSha224
  /-- `SELECT.SHA256` (R230). -/
  | selectSha256
  /-- `SELECT.SHA384` (R230). -/
  | selectSha384
  /-- `SELECT.SHA512` (R230). -/
  | selectSha512
  /-- `INIT` (41_streaming_engine.md R127). -/
  | init
  /-- `UPDATE(n)`, followed by `n` bytes of `IN` (41_streaming_engine.md R128). -/
  | update (n : Nat)
  /-- `FINISH(outlen)` (41_streaming_engine.md R136). -/
  | finish (outlen : Nat)
  /-- `PADF`, the first padding pass (42_padding.md R157). -/
  | padf
  /-- `PADL`, the finalization pass (42_padding.md R160). -/
  | padl
  /-- `SCHED1`, the SHA-1 schedule expander (43_sha1_compression.md R171, R172). -/
  | sched1
  /-- `CMP1`, the SHA-1 compression of one block (43_sha1_compression.md R178). -/
  | cmp1
  /-- `SCHED2.32`, the 32-bit SHA-2 schedule expander (44_sha2_compression.md R191, R192). -/
  | sched2w32
  /-- `CMP2.32`, the 32-bit SHA-2 compression of one block (44_sha2_compression.md R201). -/
  | cmp2w32
  /-- `SCHED2.64`, the 64-bit SHA-2 schedule expander (44_sha2_compression.md R191, R192). -/
  | sched2w64
  /-- `CMP2.64`, the 64-bit SHA-2 compression of one block (44_sha2_compression.md R201). -/
  | cmp2w64
  /-- `SER`, the digest serializer and truncator (45_digest_serializer.md R220). -/
  | ser
deriving DecidableEq, Repr

/-- Whether an instruction is one of the eight commands the host may issue; the other nine are the
sequencer's alone (30_encoding.md R86). -/
def Instr.isHost : Instr → Bool
  | .selectSha1 => true
  | .selectSha224 => true
  | .selectSha256 => true
  | .selectSha384 => true
  | .selectSha512 => true
  | .init => true
  | .update _ => true
  | .finish _ => true
  | .padf => false
  | .padl => false
  | .sched1 => false
  | .cmp1 => false
  | .sched2w32 => false
  | .cmp2w32 => false
  | .sched2w64 => false
  | .cmp2w64 => false
  | .ser => false

end Sys2Proof
end

