-- ==== Sys2Proof/Machine/State.lean ====
section
/-! DEFINITION. The state of one engine instance (10_state.md R20), with what the sequencer hands from
one micro-operation to the next, the byte arrays of the host, and the events that wait at the ports. -/

namespace Sys2Proof.Machine

/-- The lifecycle register `phase` (10_state.md R28). -/
inductive Phase where
  /-- No configuration selected since reset. -/
  | unsel
  /-- An `init` has run, and neither `FINISH` nor a failure since. -/
  | ready
  /-- `FINISH` returned OK and no `init` has run since. -/
  | done
  /-- A command returned ERR and no `init` has run since. -/
  | failed
deriving DecidableEq, Repr

/-- The result register `RES` (10_state.md R36). -/
inductive Res where
  | ok
  | err
deriving DecidableEq, Repr

/-- The selector `alg` and, under it, the hash state `H`, whose shape `alg` fixes: five or eight words
of 32 or 64 bits (10_state.md R21, R22). With no variant selected no word of `H` exists
(92_eei_decisions.md D1; log entry 9). -/
inductive AlgH where
  | unselected
  | sha1 (h : Words5)
  | sha224 (h : Words8 32)
  | sha256 (h : Words8 32)
  | sha384 (h : Words8 64)
  | sha512 (h : Words8 64)
deriving DecidableEq, Repr

/-- The message schedule `W` of the last block (10_state.md R30); it is never cleared
(70_reset_and_hazards.md R274). -/
inductive Schedule where
  /-- No block has been expanded: the schedule has no value (10_state.md R39). -/
  | noValue
  | w32 (words : List Word32)
  | w64 (words : List Word64)
deriving DecidableEq, Repr

/-- The working variables after the last round of the last block (10_state.md R31); they are never
cleared (70_reset_and_hazards.md R274). -/
inductive Working where
  /-- No block has been compressed: the variables have no value (10_state.md R39). -/
  | noValue
  /-- `a .. e` of SHA-1. -/
  | vars5 (v : Words5)
  /-- `a .. h` of SHA-224 and SHA-256. -/
  | vars8w32 (v : Words8 32)
  /-- `a .. h` of SHA-384 and SHA-512. -/
  | vars8w64 (v : Words8 64)
deriving DecidableEq, Repr

/-- The two causes of the one error kind (60_exceptions.md R241, R242), carried as a ghost value that no
rule depends on (R243). -/
inductive FailCause where
  | bitlenOverflow
  | badBlockSize
deriving DecidableEq, Repr

/-- The report of the padding engine (42_padding.md R150). -/
inductive PadReport where
  /-- No padding pass has run: no value (10_state.md R32). -/
  | noValue
  | done
  | secondBlockNeeded
  | fail (cause : FailCause)
deriving DecidableEq, Repr

/-- Where the compression engine takes its block from (20_memory.md R57): the buffer, or the input
from an offset on. -/
inductive BlockSource where
  | buf
  | inp (pos : Nat)
deriving DecidableEq, Repr

/-- What the outside can do to one engine between two steps (log entry 2). -/
inductive Event where
  /-- The host presents a command word on the command port, with the array `IN` (30_encoding.md R80,
  R81). -/
  | command (word : CommandWord) (inp : Memory)
  /-- The sequencer issues a word of its internal space, with the operands of that micro-operation: the
  source of the block, and the length of `OUT` (30_encoding.md R86; log entry 1). -/
  | micro (word : CommandWord) (src : BlockSource) (outlen : Nat)
  /-- A hardware reset between two commands (70_reset_and_hazards.md R270). -/
  | reset
  /-- The host sets the content of its array `OUT` (10_state.md R35, R41). -/
  | output (out : Memory)
deriving DecidableEq, Repr

/-- The state. Plain data. -/
structure State where
  /-- `alg` and `H` (10_state.md R21, R22). -/
  algH : AlgH
  /-- `phase` (R28). -/
  phase : Phase
  /-- `count`, the input bytes since the last `init` (R23). -/
  count : BitVec 64
  /-- `fill`, the valid bytes at the start of `BUF` (R24). -/
  fill : Nat
  /-- `BUF`, the partial-block buffer (R25). -/
  buf : Memory
  /-- `RES`, the result of the last command (R36). -/
  res : Res
  /-- `W` of the last block, transient (R30). -/
  sched : Schedule
  /-- The working variables of the last block, transient (R31). -/
  work : Working
  /-- The report of the last padding pass, transient (R32). -/
  padReport : PadReport
  /-- The source of the block of the running compression, transient (20_memory.md R57). -/
  src : BlockSource
  /-- The operand `outlen` of the running `FINISH` (10_state.md R41). -/
  outlen : Nat
  /-- The host's array `IN` of the running command (R35). -/
  inp : Memory
  /-- The host's array `OUT` (R35). -/
  out : Memory
  /-- What waits at the ports, oldest first (log entry 2). -/
  pending : List Event
  /-- The model's own: the next draw of a free value (log entry 16). -/
  freeCtr : Nat
deriving DecidableEq, Repr

/-- The reasons to stop with a fault. There is none: the one error kind of the hardware is the result
ERR, a next state (60_exceptions.md R248), and what the spec forbids is refused (00_scope.md R12). -/
inductive Fault where
deriving DecidableEq, Repr

/-- The reasons to stop with a refusal (00_scope.md R12: the spec gives no next state). All are safe: the
model has no run where the spec has none. -/
inductive Refusal where
  /-- An instruction without a meaning in the model. No arm of `exec` raises it. Safe. -/
  | notModelled (mnemonic : String)
  /-- Raised by `step`: the word is reserved on the port it came to (30_encoding.md R85). Safe. -/
  | reservedWord
  /-- Raised by `INIT` in phase UNSEL (10_state.md R29, 92_eei_decisions.md D10). Safe. -/
  | initBeforeSelect
  /-- Raised by `UPDATE` and `FINISH` in phase UNSEL (93_implementation_defined.md U2). Safe. -/
  | useBeforeInit
  /-- Raised by `UPDATE` and `FINISH` in phase DONE (93_implementation_defined.md U3). Safe. -/
  | useAfterFinish
  /-- Raised by `UPDATE` and `FINISH` in phase FAILED (93_implementation_defined.md U4). Safe. -/
  | useAfterFailure
  /-- Raised by `UPDATE` when `count + n` reaches `2^64` (41_streaming_engine.md R130). Safe. -/
  | countOverflow
  /-- Raised where a block size or a digest size is needed and no variant is selected (10_state.md R29:
  "no configuration exists to take the initial vector and the block size from"; log entry 14). Safe. -/
  | noVariant
  /-- Raised by a compression micro-operation of an engine that `alg` does not select
  (46_selector_facade.md R236; log entry 14). Safe. -/
  | engineNotSelected
deriving DecidableEq, Repr

/-- The machine right after reset: `phase` is UNSEL and no variant is selected (10_state.md R39); the
values of `count`, `fill`, `BUF` and `RES`, which the spec leaves unspecified, are those of log entry 4. -/
def State.reset : State where
  algH := .unselected
  phase := .unsel
  count := 0#64
  fill := 0
  buf := Memory.zeros
  res := .ok
  sched := .noValue
  work := .noValue
  padReport := .noValue
  src := .buf
  outlen := 0
  inp := Memory.zeros
  out := Memory.zeros
  pending := []
  freeCtr := 0

end Sys2Proof.Machine
end

