-- ==== Sys2Proof/Machine/Flags.lean ====
section
/-! DEFINITION. The flag-like state: which commands the phase allows, and the encoding of the result.
There are no arithmetic flags (10_state.md R29, 40_word_arithmetic.md R111). -/

namespace Sys2Proof.Machine

/-- Why `UPDATE` or `FINISH` is refused in a phase: both are legal in READY alone (10_state.md R29,
41_streaming_engine.md R126). -/
def useRefusal : Phase → Option Refusal
  | .unsel => some .useBeforeInit
  | .ready => none
  | .done => some .useAfterFinish
  | .failed => some .useAfterFailure

/-- Why `INIT` is refused in a phase: it is legal in READY, DONE and FAILED (10_state.md R29,
41_streaming_engine.md R126). -/
def initRefusal : Phase → Option Refusal
  | .unsel => some .initBeforeSelect
  | .ready => none
  | .done => none
  | .failed => none

/-- The encoding of `RES`: 0 is OK, 1 is ERR (30_encoding.md R90). -/
def Res.code : Res → BitVec 1
  | .ok => 0#1
  | .err => 1#1

/-- The result an encoded bit stands for (30_encoding.md R90). -/
def Res.ofCode (c : BitVec 1) : Res := if c = 0#1 then .ok else .err

end Sys2Proof.Machine
end

