-- ==== Sys2Proof/Machine/Operands.lean ====
section
/-! DEFINITION. The operands: word arithmetic (40_word_arithmetic.md), the conversions between bytes
and words (20_memory.md R52 to R54), and the block a compression engine reads (20_memory.md R57). -/

namespace Sys2Proof.Machine

/-- `ADDW_w`, wrapping addition; no carry is recorded (40_word_arithmetic.md R111). -/
def addW {w : Nat} (x y : BitVec w) : BitVec w := x + y

/-- `ADDW_w` of several words (R111). -/
def sumW {w : Nat} (xs : List (BitVec w)) : BitVec w := xs.foldr addW 0#w

/-- `ROTL_w`, rotate left (R112); an amount of `w` or more is taken modulo `w` (91_not_in_source.md N18). -/
def rotl {w : Nat} (x : BitVec w) (r : Nat) : BitVec w := (x <<< (r % w)) ||| (x >>> (w - r % w))

/-- `ROTR_w`, rotate right (R113); an amount of `w` or more is taken modulo `w` (N18). -/
def rotr {w : Nat} (x : BitVec w) (r : Nat) : BitVec w := (x >>> (r % w)) ||| (x <<< (w - r % w))

/-- `SHR_w`, logical shift right (R114). -/
def shr {w : Nat} (x : BitVec w) (r : Nat) : BitVec w := x >>> r

/-- `FROMBYTE_w`, a byte as the word of the same value (R116). -/
def fromByte (w : Nat) (b : Byte) : BitVec w := b.setWidth w

/-- `BE_LOAD`, the first byte most significant: from the word 0, shift the bytes in (R117). -/
def beLoad (w : Nat) (bs : List Byte) : BitVec w :=
  bs.foldl (fun v b => (v <<< 8) ||| fromByte w b) 0#w

/-- `BE_STORE_k`, byte `i` being `(v >> 8(k-1-i)) AND 0xFF` (R118). -/
def beStore {w : Nat} (k : Nat) (v : BitVec w) : List Byte :=
  (List.range k).map fun i => (v >>> (8 * (k - 1 - i))).setWidth 8

/-- Words 0 to 15 of a schedule: the block's bytes read big-endian, `w / 8` at a time (20_memory.md R52). -/
def blockWords (w : Nat) (block : List Byte) : List (BitVec w) :=
  (List.range 16).map fun t => beLoad w ((block.drop (w / 8 * t)).take (w / 8))

/-- The length field: `bitlen` as 8 bytes, big-endian (20_memory.md R53). `BE_STORE_8` is defined below `2^64`
(40_word_arithmetic.md R118); at and above it the 8 bytes are those of a free value (DESIGN CHOICE, log entry
26), which only `PADL` on the sequencer's own port can reach (42_padding.md R162). -/
def lengthField (bitlen : Nat) : List Byte :=
  beStore 8 (if bitlen < 2 ^ 64 then BitVec.ofNat 64 bitlen else Config.freeLength bitlen)

/-- The block of `size` bytes that the sequencer has selected: `BUF[0..size-1]`, or the bytes of `IN`
from an offset on, which need not be aligned (20_memory.md R56, R57). A byte of `BUF` that does not exist
(92_eei_decisions.md D1) reads as 0: an expander on the sequencer's own port asks for such bytes where `BUF` is
shorter than the block, as `SCHED2.64` does with a 64-byte variant selected and every expander with none. The spec
gives them no value (DESIGN CHOICE, log entry 27). -/
def State.block (s : State) (size : Nat) : List Byte :=
  match s.src with
  | .buf => s.buf.readBytes 0 size
  | .inp pos => s.inp.readBytes pos size

/-- The bytes `IN[pos .. pos+n-1]`. -/
def State.input (s : State) (pos n : Nat) : List Byte := s.inp.readBytes pos n

end Sys2Proof.Machine
end

