-- ==== Sys2Proof/Machine/Sha1.lean ====
section
/-! DEFINITION. The SHA-1 compression engine as functions of the state words and the block
(43_sha1_compression.md). -/

namespace Sys2Proof.Machine

/-- One more schedule word at the head of the words so far, the newest first: `ROTL_32(W[t-3] xor W[t-8]
xor W[t-14] xor W[t-16], 1)` (43_sha1_compression.md R172). -/
def sched1Next (newestFirst : List Word32) : List Word32 :=
  rotl (newestFirst.getD 2 0#32 ^^^ newestFirst.getD 7 0#32 ^^^ newestFirst.getD 13 0#32
      ^^^ newestFirst.getD 15 0#32) 1
    :: newestFirst

/-- A step taken `n` times. -/
def repeatStep {α : Type} (f : α → α) : Nat → α → α
  | 0, x => x
  | n + 1, x => repeatStep f n (f x)

/-- `SCHED1`: the 80 words `W[0..79]` of a block (43_sha1_compression.md R171, R172). -/
def sched1 (block : List Byte) : List Word32 :=
  (repeatStep sched1Next (80 - 16) (blockWords 32 block).reverse).reverse

/-- The round function `f_t` (43_sha1_compression.md R174). -/
def f1 (t : Nat) (b c d : Word32) : Word32 :=
  if t < 20 then (b &&& c) ||| (~~~b &&& d)
  else if t < 40 then b ^^^ c ^^^ d
  else if t < 60 then (b &&& c) ||| (b &&& d) ||| (c &&& d)
  else b ^^^ c ^^^ d

/-- The round constant `K_t = K1[t div 20]` (43_sha1_compression.md R175). -/
def k1At (t : Nat) : Word32 := k1.getD (t / 20) 0#32

/-- One round; the new values are all of the old ones (43_sha1_compression.md R176). -/
def round1 (t : Nat) (wt : Word32) (v : Words5) : Words5 where
  a := sumW [rotl v.a 5, f1 t v.b v.c v.d, v.e, k1At t, wt]
  b := v.a
  c := rotl v.b 30
  d := v.c
  e := v.d

/-- The rounds from round `t` on, one for each schedule word given (43_sha1_compression.md R176). -/
def rounds1 : Nat → List Word32 → Words5 → Words5
  | _, [], v => v
  | t, wt :: ws, v => rounds1 (t + 1) ws (round1 t wt v)

/-- Folding the working variables back into `H` (43_sha1_compression.md R177). -/
def fold1 (h v : Words5) : Words5 where
  a := addW h.a v.a
  b := addW h.b v.b
  c := addW h.c v.c
  d := addW h.d v.d
  e := addW h.e v.e

/-- The working variables after the last round, loaded from `H` (43_sha1_compression.md R173, R176). -/
def work1 (h : Words5) (block : List Byte) : Words5 := rounds1 0 (sched1 block) h

/-- `CMP1`: the chaining value after one block (43_sha1_compression.md R178). -/
def cmp1 (h : Words5) (block : List Byte) : Words5 := fold1 h (work1 h block)

end Sys2Proof.Machine
end

