-- ==== Sys2Proof/Machine/Sha2.lean ====
section
/-! DEFINITION. The SHA-2 compression engines, one skeleton for both word widths
(44_sha2_compression.md). -/

namespace Sys2Proof.Machine

/-- What distinguishes the two instantiations of the skeleton: the three amounts of each sigma function,
the round constants and the number of rounds (44_sha2_compression.md R202). -/
structure Sha2Width (w : Nat) where
  bigSigma0 : Nat × Nat × Nat
  bigSigma1 : Nat × Nat × Nat
  smallSigma0 : Nat × Nat × Nat
  smallSigma1 : Nat × Nat × Nat
  constants : List (BitVec w)
  rounds : Nat
deriving DecidableEq, Repr

/-- The instantiation of SHA-224 and SHA-256 (44_sha2_compression.md R193, R194, R196). -/
def width32 : Sha2Width 32 where
  bigSigma0 := (2, 13, 22)
  bigSigma1 := (6, 11, 25)
  smallSigma0 := (7, 18, 3)
  smallSigma1 := (17, 19, 10)
  constants := k256
  rounds := 64

/-- The instantiation of SHA-384 and SHA-512 (44_sha2_compression.md R193, R194, R197). -/
def width64 : Sha2Width 64 where
  bigSigma0 := (28, 34, 39)
  bigSigma1 := (14, 18, 41)
  smallSigma0 := (1, 8, 7)
  smallSigma1 := (19, 61, 6)
  constants := k512
  rounds := 80

/-- A big sigma function: three rotations (44_sha2_compression.md R194). -/
def bigSigma {w : Nat} (r : Nat × Nat × Nat) (x : BitVec w) : BitVec w :=
  rotr x r.1 ^^^ rotr x r.2.1 ^^^ rotr x r.2.2

/-- A small sigma function: two rotations and a logical shift (44_sha2_compression.md R193). -/
def smallSigma {w : Nat} (r : Nat × Nat × Nat) (x : BitVec w) : BitVec w :=
  rotr x r.1 ^^^ rotr x r.2.1 ^^^ shr x r.2.2

/-- `Ch(x, y, z)` (44_sha2_compression.md R195). -/
def ch {w : Nat} (x y z : BitVec w) : BitVec w := (x &&& y) ^^^ (~~~x &&& z)

/-- `Maj(x, y, z)` (44_sha2_compression.md R195). -/
def maj {w : Nat} (x y z : BitVec w) : BitVec w := (x &&& y) ^^^ (x &&& z) ^^^ (y &&& z)

/-- One more schedule word at the head of the words so far, the newest first: `sigma1(W[t-2]) + W[t-7] +
sigma0(W[t-15]) + W[t-16]` (44_sha2_compression.md R192). -/
def sched2Next {w : Nat} (p : Sha2Width w) (newestFirst : List (BitVec w)) : List (BitVec w) :=
  sumW [smallSigma p.smallSigma1 (newestFirst.getD 1 0#w), newestFirst.getD 6 0#w,
      smallSigma p.smallSigma0 (newestFirst.getD 14 0#w), newestFirst.getD 15 0#w]
    :: newestFirst

/-- `SCHED2.w`: the words `W[0..NW-1]` of a block (44_sha2_compression.md R191, R192). -/
def sched2 {w : Nat} (p : Sha2Width w) (block : List Byte) : List (BitVec w) :=
  (repeatStep (sched2Next p) (p.rounds - 16) (blockWords w block).reverse).reverse

/-- The temporary `T1` of a round (44_sha2_compression.md R199). -/
def temp1 {w : Nat} (p : Sha2Width w) (t : Nat) (wt : BitVec w) (v : Words8 w) : BitVec w :=
  sumW [v.h, bigSigma p.bigSigma1 v.e, ch v.e v.f v.g, p.constants.getD t 0#w, wt]

/-- The temporary `T2` of a round (44_sha2_compression.md R199). -/
def temp2 {w : Nat} (p : Sha2Width w) (v : Words8 w) : BitVec w :=
  addW (bigSigma p.bigSigma0 v.a) (maj v.a v.b v.c)

/-- One round; the new values are all of the old ones (44_sha2_compression.md R199). -/
def round2 {w : Nat} (p : Sha2Width w) (t : Nat) (wt : BitVec w) (v : Words8 w) : Words8 w where
  a := addW (temp1 p t wt v) (temp2 p v)
  b := v.a
  c := v.b
  d := v.c
  e := addW v.d (temp1 p t wt v)
  f := v.e
  g := v.f
  h := v.g

/-- The rounds from round `t` on, one for each schedule word given (44_sha2_compression.md R199). -/
def rounds2 {w : Nat} (p : Sha2Width w) : Nat → List (BitVec w) → Words8 w → Words8 w
  | _, [], v => v
  | t, wt :: ws, v => rounds2 p (t + 1) ws (round2 p t wt v)

/-- Folding the working variables back into `H` (44_sha2_compression.md R200). -/
def fold2 {w : Nat} (h v : Words8 w) : Words8 w where
  a := addW h.a v.a
  b := addW h.b v.b
  c := addW h.c v.c
  d := addW h.d v.d
  e := addW h.e v.e
  f := addW h.f v.f
  g := addW h.g v.g
  h := addW h.h v.h

/-- The working variables after the last round, loaded from `H` (44_sha2_compression.md R198, R199). -/
def work2 {w : Nat} (p : Sha2Width w) (h : Words8 w) (block : List Byte) : Words8 w :=
  rounds2 p 0 (sched2 p block) h

/-- `CMP2.w`: the chaining value after one block (44_sha2_compression.md R201). -/
def cmp2 {w : Nat} (p : Sha2Width w) (h : Words8 w) (block : List Byte) : Words8 w :=
  fold2 h (work2 p h block)

end Sys2Proof.Machine
end

