-- ==== Sys2Proof/Machine/Ops.lean ====
section
/-! DEFINITION. The operations the meanings share: the selected variant, `COMPRESS`, the equivalent of
`INIT`, the entry of the error, and the hardware reset. -/

namespace Sys2Proof.Machine

/-- The register `alg`: the selected variant, or none (10_state.md R20, R21). -/
def AlgH.alg : AlgH → Option Alg
  | .unselected => none
  | .sha1 _ => some .sha1
  | .sha224 _ => some .sha224
  | .sha256 _ => some .sha256
  | .sha384 _ => some .sha384
  | .sha512 _ => some .sha512

/-- The register `alg` of a state. -/
def State.alg (s : State) : Option Alg := s.algH.alg

/-- The block size `B` of the selected variant; 0 where none is selected, since then no byte of `BUF`
exists (92_eei_decisions.md D1). -/
def AlgH.bufSize (x : AlgH) : Nat :=
  match x.alg with
  | none => 0
  | some a => blockSize a

/-- A variant with its initial vector in `H` (46_selector_facade.md R231 to R235). -/
def AlgH.initial : Alg → AlgH
  | .sha1 => .sha1 ivSha1
  | .sha224 => .sha224 ivSha224
  | .sha256 => .sha256 ivSha256
  | .sha384 => .sha384 ivSha384
  | .sha512 => .sha512 ivSha512

/-- The schedule that the expander of the selected engine makes of a block (46_selector_facade.md R236). -/
def AlgH.scheduleOf (block : List Byte) : AlgH → Schedule
  | .unselected => .noValue
  | .sha1 _ => .w32 (sched1 block)
  | .sha224 _ => .w32 (sched2 width32 block)
  | .sha256 _ => .w32 (sched2 width32 block)
  | .sha384 _ => .w64 (sched2 width64 block)
  | .sha512 _ => .w64 (sched2 width64 block)

/-- The working variables after the last round of the selected engine on a block. -/
def AlgH.workOf (block : List Byte) : AlgH → Working
  | .unselected => .noValue
  | .sha1 h => .vars5 (work1 h block)
  | .sha224 h => .vars8w32 (work2 width32 h block)
  | .sha256 h => .vars8w32 (work2 width32 h block)
  | .sha384 h => .vars8w64 (work2 width64 h block)
  | .sha512 h => .vars8w64 (work2 width64 h block)

/-- `H` after one block, by the engine of the selected variant: `CMP1` for SHA-1, `CMP2.32` for SHA-224
and SHA-256, `CMP2.64` for SHA-384 and SHA-512 (46_selector_facade.md R236, 44_sha2_compression.md R202). -/
def AlgH.compress (x : AlgH) (block : List Byte) : AlgH :=
  match x with
  | .unselected => .unselected
  | .sha1 h => .sha1 (cmp1 h block)
  | .sha224 h => .sha224 (cmp2 width32 h block)
  | .sha256 h => .sha256 (cmp2 width32 h block)
  | .sha384 h => .sha384 (cmp2 width64 h block)
  | .sha512 h => .sha512 (cmp2 width64 h block)

/-- No report of the padding engine, no block selected and no operand of `FINISH`: none of these values
survives the command (10_state.md R32, R41). At rest the selected block is `BUF` and `outlen` is 0 (log entry
23). -/
def State.dropTransients (s : State) : State :=
  { s with
    padReport := .noValue
    src := .buf
    outlen := 0 }

/-- The end of a command: its result is in `RES` (10_state.md R36) and its transient values are gone (R32). -/
def State.answer (r : Res) (s : State) : State := { s.dropTransients with res := r }

/-- `count` advanced by the length of the input (41_streaming_engine.md R130). -/
def State.advance (n : Nat) (s : State) : State :=
  { s with count := BitVec.ofNat 64 (s.count.toNat + n) }

/-- The block of the running compression selected (20_memory.md R57). -/
def State.select (src : BlockSource) (s : State) : State := { s with src := src }

/-- The operand `outlen` of the running `FINISH` latched (41_streaming_engine.md R136). -/
def State.latchOutlen (outlen : Nat) (s : State) : State := { s with outlen := outlen }

/-- The array `IN` of the running command latched (10_state.md R35). -/
def State.latchInput (inp : Memory) (s : State) : State := { s with inp := inp }

/-- The array `OUT` as the host sets it (10_state.md R35). -/
def State.presetOutput (out : Memory) (s : State) : State := { s with out := out }

/-- The schedule of a block in `W` (10_state.md R30). -/
def State.expanded (w : Schedule) (s : State) : State := { s with sched := w }

/-- `COMPRESS` of one block from a source: it reads the block and `H`, and writes `H` and the transients
of the engine (41_streaming_engine.md, head; 43_sha1_compression.md R178, 44_sha2_compression.md R201). -/
def State.compress (src : BlockSource) (s : State) : State :=
  let block := (s.select src).block s.algH.bufSize
  { s with
    src := src
    sched := s.algH.scheduleOf block
    work := s.algH.workOf block
    algH := s.algH.compress block }

/-- The equivalent of `INIT` for a variant: `count`, `fill`, `BUF`, `H`, `phase` and `RES`
(41_streaming_engine.md R127). It is also the one way back from an error (60_exceptions.md R250). -/
def initContext (a : Alg) (s : State) : State :=
  { s.answer .ok with
    algH := AlgH.initial a
    count := 0#64
    fill := 0
    buf := Memory.zeros
    phase := .ready }

/-- Five free words of `H` at a draw. -/
def freeWords5 (draw : Nat) : Words5 where
  a := Config.freeWord32 draw 0
  b := Config.freeWord32 draw 1
  c := Config.freeWord32 draw 2
  d := Config.freeWord32 draw 3
  e := Config.freeWord32 draw 4

/-- Eight free 32-bit words of `H` at a draw. -/
def freeWords8w32 (draw : Nat) : Words8 32 where
  a := Config.freeWord32 draw 0
  b := Config.freeWord32 draw 1
  c := Config.freeWord32 draw 2
  d := Config.freeWord32 draw 3
  e := Config.freeWord32 draw 4
  f := Config.freeWord32 draw 5
  g := Config.freeWord32 draw 6
  h := Config.freeWord32 draw 7

/-- Eight free 64-bit words of `H` at a draw. -/
def freeWords8w64 (draw : Nat) : Words8 64 where
  a := Config.freeWord64 draw 0
  b := Config.freeWord64 draw 1
  c := Config.freeWord64 draw 2
  d := Config.freeWord64 draw 3
  e := Config.freeWord64 draw 4
  f := Config.freeWord64 draw 5
  g := Config.freeWord64 draw 6
  h := Config.freeWord64 draw 7

/-- A variant with free words in `H`. -/
def freeAlgH (draw : Nat) : Option Alg → AlgH
  | none => .unselected
  | some .sha1 => .sha1 (freeWords5 draw)
  | some .sha224 => .sha224 (freeWords8w32 draw)
  | some .sha256 => .sha256 (freeWords8w32 draw)
  | some .sha384 => .sha384 (freeWords8w64 draw)
  | some .sha512 => .sha512 (freeWords8w64 draw)

/-- A buffer of `size` free bytes. -/
def freeBuf (draw size : Nat) : Memory :=
  Memory.ofBytes ((List.range size).map (Config.freeByte draw))

/-- The context with `H`, `count`, `fill` and `BUF` free, for a variant or none (10_state.md R38, R39). The
values depend on the draw alone, so that two instances, or two histories, with equal draws get equal values:
the spec does not say so (DESIGN CHOICE, log entry 16). -/
def freeContext (variant : Option Alg) (s : State) : State :=
  { s with
    algH := freeAlgH s.freeCtr variant
    count := Config.freeCount s.freeCtr
    fill := Config.freeFill s.freeCtr
    buf := freeBuf s.freeCtr (freeAlgH s.freeCtr variant).bufSize
    freeCtr := s.freeCtr + 1 }

/-- The entry of the one error: `RES` is ERR, `phase` is FAILED, `alg` is kept, `H`, `count`, `fill` and
`BUF` are unspecified, `OUT` is untouched; there is no handler and no saved register
(60_exceptions.md R248, 10_state.md R38). -/
def takeFailure (s : State) : State :=
  { (freeContext s.alg s).answer .err with phase := .failed }

/-- A hardware reset between two commands: `phase` is UNSEL, every other element of the context is
unspecified, the transients have no value (70_reset_and_hazards.md R270, 10_state.md R39; log entry 7). -/
def hardwareReset (s : State) : State :=
  { (freeContext (algOfCode (Config.freeAlgCode s.freeCtr)) s).dropTransients with
    phase := .unsel
    res := Res.ofCode (Config.freeRes s.freeCtr)
    sched := .noValue
    work := .noValue }

end Sys2Proof.Machine
end

