-- ==== Sys2Proof/Machine/Compression.lean ====
section
/-! DEFINITION. The micro-operations of the compression engines and their schedule expanders
(43_sha1_compression.md, 44_sha2_compression.md). An expander is a function of the block alone; an
engine runs where `alg` selects it (46_selector_facade.md R236). An expander asked for bytes of `BUF` that do not
exist reads them as 0 (`State.block`; DESIGN CHOICE, log entry 27). -/

namespace Sys2Proof.Machine

/-- `SCHED1` (43_sha1_compression.md R171, R172). -/
def execSched1 (s : State) : Host.Outcome State Fault Refusal :=
  .next (s.expanded (.w32 (sched1 (s.block 64))))

/-- `SCHED2.32` (44_sha2_compression.md R191, R192). -/
def execSched2w32 (s : State) : Host.Outcome State Fault Refusal :=
  .next (s.expanded (.w32 (sched2 width32 (s.block 64))))

/-- `SCHED2.64` (44_sha2_compression.md R191, R192). -/
def execSched2w64 (s : State) : Host.Outcome State Fault Refusal :=
  .next (s.expanded (.w64 (sched2 width64 (s.block 128))))

/-- `CMP1` (43_sha1_compression.md R170, R178). -/
def execCmp1 (s : State) : Host.Outcome State Fault Refusal :=
  match s.alg with
  | some .sha1 => .next (s.compress s.src)
  | some .sha224 => .refused .engineNotSelected
  | some .sha256 => .refused .engineNotSelected
  | some .sha384 => .refused .engineNotSelected
  | some .sha512 => .refused .engineNotSelected
  | none => .refused .engineNotSelected

/-- `CMP2.32` (44_sha2_compression.md R190, R201, R202). -/
def execCmp2w32 (s : State) : Host.Outcome State Fault Refusal :=
  match s.alg with
  | some .sha224 => .next (s.compress s.src)
  | some .sha256 => .next (s.compress s.src)
  | some .sha1 => .refused .engineNotSelected
  | some .sha384 => .refused .engineNotSelected
  | some .sha512 => .refused .engineNotSelected
  | none => .refused .engineNotSelected

/-- `CMP2.64` (44_sha2_compression.md R190, R201, R202). -/
def execCmp2w64 (s : State) : Host.Outcome State Fault Refusal :=
  match s.alg with
  | some .sha384 => .next (s.compress s.src)
  | some .sha512 => .next (s.compress s.src)
  | some .sha1 => .refused .engineNotSelected
  | some .sha224 => .refused .engineNotSelected
  | some .sha256 => .refused .engineNotSelected
  | none => .refused .engineNotSelected

end Sys2Proof.Machine
end

