-- ==== Sys2Proof/Machine/Selector.lean ====
section
/-! DEFINITION. The five `SELECT` commands (46_selector_facade.md R230): legal in every phase, each sets
`alg` and does the equivalent of `INIT`. -/

namespace Sys2Proof.Machine

/-- `SELECT.SHA1` (46_selector_facade.md R230, R231). -/
def execSelectSha1 (s : State) : Host.Outcome State Fault Refusal := .next (initContext .sha1 s)

/-- `SELECT.SHA224` (46_selector_facade.md R230, R232). -/
def execSelectSha224 (s : State) : Host.Outcome State Fault Refusal := .next (initContext .sha224 s)

/-- `SELECT.SHA256` (46_selector_facade.md R230, R233). -/
def execSelectSha256 (s : State) : Host.Outcome State Fault Refusal := .next (initContext .sha256 s)

/-- `SELECT.SHA384` (46_selector_facade.md R230, R234). -/
def execSelectSha384 (s : State) : Host.Outcome State Fault Refusal := .next (initContext .sha384 s)

/-- `SELECT.SHA512` (46_selector_facade.md R230, R235). -/
def execSelectSha512 (s : State) : Host.Outcome State Fault Refusal := .next (initContext .sha512 s)

end Sys2Proof.Machine
end

