-- ==== Sys2Proof/Machine/Padding.lean ====
section
/-! DEFINITION. The padding engine (42_padding.md): the two passes as functions of `BUF`, `B` and
`count`, and the micro-operations `PADF` and `PADL`. -/

namespace Sys2Proof.Machine

/-- What a padding pass gives back: the new content of `BUF` and a report (42_padding.md R150). -/
structure PadResult where
  buf : Memory
  report : PadReport
deriving DecidableEq, Repr

/-- `PADF(BUF, B, count)` with a value of `LEN_RESERVE`, defined for any `B` (42_padding.md R157, R158,
92_eei_decisions.md D27). -/
def padF (lr : Config.LenReserve) (size : Nat) (buf : Memory) (count : Nat) : PadResult :=
  if size ≠ 64 ∧ size ≠ 128 then ⟨buf, .fail .badBlockSize⟩
  else if 2 ^ 61 ≤ count then ⟨buf, .fail .bitlenOverflow⟩
  else
    let bitlen := count * 8
    let off := count % size
    let marked := buf.write off marker
    let remaining := size - (off + 1)
    if lr size ≤ remaining then
      let gapped := marked.writeBytes (off + 1) (zeroBytes (size - 9 - off))
      ⟨gapped.writeBytes (size - 8) (lengthField bitlen), .done⟩
    else ⟨marked.writeBytes (off + 1) (zeroBytes (size - 1 - off)), .secondBlockNeeded⟩

/-- `PADL(BUF, B, count)` (42_padding.md R160). -/
def padL (size : Nat) (buf : Memory) (count : Nat) : PadResult :=
  if size ≠ 64 ∧ size ≠ 128 then ⟨buf, .fail .badBlockSize⟩
  else ⟨buf.writeBytes (size - 8) (lengthField (count * 8)), .done⟩

/-- The state after a padding pass: `BUF` and the report, nothing else (42_padding.md R150). -/
def State.padded (s : State) (r : PadResult) : State := { s with buf := r.buf, padReport := r.report }

/-- The first pass on a state. -/
def runPadF (lr : Config.LenReserve) (s : State) : State :=
  s.padded (padF lr s.algH.bufSize s.buf s.count.toNat)

/-- The finalization pass on a state. -/
def runPadL (s : State) : State := s.padded (padL s.algH.bufSize s.buf s.count.toNat)

/-- `PADF` with a value of `LEN_RESERVE` (42_padding.md R157). -/
def execPadfAt (lr : Config.LenReserve) (s : State) : Host.Outcome State Fault Refusal :=
  match s.alg with
  | none => .refused .noVariant
  | some _ => .next (runPadF lr s)

/-- `PADF` with the default `LEN_RESERVE` (42_padding.md R157; log entry 3). -/
def execPadf (s : State) : Host.Outcome State Fault Refusal := execPadfAt lenReserve s

/-- `PADL` (42_padding.md R160). Issued by the sequencer from `count = 2^61` on, the length field is free
(log entry 26). -/
def execPadl (s : State) : Host.Outcome State Fault Refusal :=
  match s.alg with
  | none => .refused .noVariant
  | some _ => .next (runPadL s)

end Sys2Proof.Machine
end

