-- ==== Sys2Proof/Machine/Serializer.lean ====
section
/-! DEFINITION. The digest serializer and truncator (45_digest_serializer.md) and the micro-operation
`SER`. -/

namespace Sys2Proof.Machine

/-- `S`: words written big-endian, `k` bytes each, word 0 first (45_digest_serializer.md R222). -/
def serializeWords {w : Nat} (k : Nat) (words : List (BitVec w)) : List Byte :=
  words.flatMap (beStore k)

/-- The digest `D[0..DS-1]` of a variant from the words of `H`: the first `NWD` words serialized, cut to
`DS` bytes (45_digest_serializer.md R221 to R223). -/
def digestOfWords {w : Nat} (a : Alg) (words : List (BitVec w)) : List Byte :=
  (serializeWords (wordBytes a) (words.take (wordsSerialized a))).take (digestSize a)

/-- The digest `D` of a context; empty where no variant is selected. -/
def AlgH.digest : AlgH → List Byte
  | .unselected => []
  | .sha1 h => digestOfWords .sha1 h.toList
  | .sha224 h => digestOfWords .sha224 h.toList
  | .sha256 h => digestOfWords .sha256 h.toList
  | .sha384 h => digestOfWords .sha384 h.toList
  | .sha512 h => digestOfWords .sha512 h.toList

/-- The bytes that reach `OUT`: the first `min(outlen, DS)` of the digest (45_digest_serializer.md R224). -/
def AlgH.output (x : AlgH) (outlen : Nat) : List Byte := x.digest.take (min outlen x.digest.length)

/-- `SER` on a state: `OUT[0..m-1]` is written, nothing of the engine (45_digest_serializer.md R220, R224). -/
def runSer (s : State) : State := { s with out := s.out.writeBytes 0 (s.algH.output s.outlen) }

/-- `SER` (45_digest_serializer.md R220). -/
def execSer (s : State) : Host.Outcome State Fault Refusal :=
  match s.alg with
  | none => .refused .noVariant
  | some _ => .next (runSer s)

end Sys2Proof.Machine
end

