-- ==== Sys2Proof/Machine/Streaming.lean ====
section
/-! DEFINITION. The streaming controller (41_streaming_engine.md): `INIT`, `UPDATE` and `FINISH`. -/

namespace Sys2Proof.Machine

/-- `INIT` (41_streaming_engine.md R127). -/
def execInit (s : State) : Host.Outcome State Fault Refusal :=
  match initRefusal s.phase with
  | some r => .refused r
  | none =>
    match s.alg with
    | none => .refused .noVariant
    | some a => .next (initContext a s)

/-- The whole blocks of `IN`, `blocks` of them from `pos` on, compressed in ascending order straight from
`IN` (41_streaming_engine.md R133). -/
def directBlocks (size : Nat) : Nat → Nat → State → State
  | 0, _, s => s
  | blocks + 1, pos, s => directBlocks size blocks (pos + size) (s.compress (.inp pos))

/-- `UPDATE` of fewer bytes than complete the buffer: they are appended (41_streaming_engine.md R131). -/
def appendInput (n : Nat) (s : State) : State :=
  { s with
    buf := s.buf.writeBytes s.fill (s.input 0 n)
    fill := s.fill + n }

/-- `BUF` with the first `take` input bytes after the `fill` bytes it holds (41_streaming_engine.md R132). -/
def fillBuffer (take : Nat) (s : State) : State :=
  { s with buf := s.buf.writeBytes s.fill (s.input 0 take) }

/-- `BUF` empty: every byte 0, `fill` 0 (41_streaming_engine.md R132). -/
def emptyBuffer (s : State) : State :=
  { s with
    buf := Memory.zeros
    fill := 0 }

/-- The first `take` input bytes complete the buffer, which is compressed and cleared
(41_streaming_engine.md R132). -/
def completeBuffer (take : Nat) (s : State) : State :=
  emptyBuffer ((fillBuffer take s).compress .buf)

/-- The remainder of the input goes to the start of the buffer (41_streaming_engine.md R134). -/
def keepRemainder (pos rem : Nat) (s : State) : State :=
  { s with
    buf := s.buf.writeBytes 0 (s.input pos rem)
    fill := rem }

/-- `UPDATE` of bytes that complete the buffer: `take` of them do, then whole blocks are compressed from
`IN`, and the remainder is kept (41_streaming_engine.md R132 to R134). The loop of R133 runs
`(n - take) div B` times. -/
def absorbBlocks (size n : Nat) (s : State) : State :=
  let take := size - s.fill
  let blocks := (n - take) / size
  let pos := take + blocks * size
  keepRemainder pos (n - pos) (directBlocks size blocks take (completeBuffer take s))

/-- `UPDATE` of `n > 0` bytes, after the checks (41_streaming_engine.md R128, from `count <- count + n`
on). -/
def absorb (size n : Nat) (s : State) : State :=
  if s.fill + n < size then (appendInput n (s.advance n)).answer .ok
  else (absorbBlocks size n (s.advance n)).answer .ok

/-- `UPDATE(n)` on the bytes `IN[0..n-1]` (41_streaming_engine.md R128 to R134). -/
def execUpdate (n : Nat) (s : State) : Host.Outcome State Fault Refusal :=
  match useRefusal s.phase with
  | some r => .refused r
  | none =>
    match s.alg with
    | none => .refused .noVariant
    | some a =>
      if n = 0 then .next (s.answer .ok)
      else if s.count.toNat + n < 2 ^ 64 then .next (absorb (blockSize a) n s)
      else .refused .countOverflow

/-- The context after `FINISH` returned OK: `phase` is DONE, `RES` is OK, `fill` is unspecified, the
transients are gone (41_streaming_engine.md R142, 10_state.md R24). -/
def closeContext (s : State) : State :=
  { s.answer .ok with
    fill := Config.freeFill s.freeCtr
    phase := .done
    freeCtr := s.freeCtr + 1 }

/-- The end of `FINISH`: the last padded block is compressed, the digest is written, and `fill` is left
unspecified (41_streaming_engine.md R139, R140, R142, 10_state.md R24). -/
def finishDigest (s : State) : State :=
  closeContext (runSer (s.compress .buf))

/-- `BUF` cleared, `fill` not (41_streaming_engine.md R138). -/
def clearBuffer (s : State) : State := { s with buf := Memory.zeros }

/-- `FINISH` between the padding passes: the first padded block is compressed and the buffer is cleared
(41_streaming_engine.md R138). -/
def betweenPasses (s : State) : State := clearBuffer (s.compress .buf)

/-- `FINISH` after the checks, with a value of `LEN_RESERVE` (41_streaming_engine.md R136). -/
def finalize (lr : Config.LenReserve) (outlen : Nat) (s : State) : State :=
  let first := runPadF lr (s.latchOutlen outlen)
  match first.padReport with
  | .fail _ => takeFailure first
  | .secondBlockNeeded =>
    let second := runPadL (betweenPasses first)
    match second.padReport with
    | .fail _ => takeFailure second
    | .done => finishDigest second
    | .secondBlockNeeded => finishDigest second
    | .noValue => finishDigest second
  | .done => finishDigest first
  | .noValue => finishDigest first

/-- `FINISH(outlen)` with a value of `LEN_RESERVE` (41_streaming_engine.md R136 to R142). -/
def execFinishAt (lr : Config.LenReserve) (outlen : Nat) (s : State) :
    Host.Outcome State Fault Refusal :=
  match useRefusal s.phase with
  | some r => .refused r
  | none =>
    match s.alg with
    | none => .refused .noVariant
    | some _ => .next (finalize lr outlen s)

/-- `FINISH(outlen)` with the default `LEN_RESERVE` (41_streaming_engine.md R136 to R142; log entry 3). -/
def execFinish (outlen : Nat) (s : State) : Host.Outcome State Fault Refusal :=
  execFinishAt lenReserve outlen s

end Sys2Proof.Machine
end

