-- ==== Sys2Proof/Machine/Dispatch.lean ====
section
/-! DEFINITION. The dispatch: one arm per instruction, each a call of its meaning. -/

namespace Sys2Proof.Machine

def exec (i : Instr) (s : State) : Host.Outcome State Fault Refusal :=
  match i with
  | .selectSha1 => Sys2Proof.Machine.execSelectSha1 s
  | .selectSha224 => Sys2Proof.Machine.execSelectSha224 s
  | .selectSha256 => Sys2Proof.Machine.execSelectSha256 s
  | .selectSha384 => Sys2Proof.Machine.execSelectSha384 s
  | .selectSha512 => Sys2Proof.Machine.execSelectSha512 s
  | .init => Sys2Proof.Machine.execInit s
  | .update n => Sys2Proof.Machine.execUpdate n s
  | .finish outlen => Sys2Proof.Machine.execFinish outlen s
  | .padf => Sys2Proof.Machine.execPadf s
  | .padl => Sys2Proof.Machine.execPadl s
  | .sched1 => Sys2Proof.Machine.execSched1 s
  | .cmp1 => Sys2Proof.Machine.execCmp1 s
  | .sched2w32 => Sys2Proof.Machine.execSched2w32 s
  | .cmp2w32 => Sys2Proof.Machine.execCmp2w32 s
  | .sched2w64 => Sys2Proof.Machine.execSched2w64 s
  | .cmp2w64 => Sys2Proof.Machine.execCmp2w64 s
  | .ser => Sys2Proof.Machine.execSer s

end Sys2Proof.Machine
end

