-- ==== Sys2Proof/WellFormed.lean ====
section
/-! DEFINITION. Which instructions the 72-bit command word can carry. -/

namespace Sys2Proof

/-- The length operand is unsigned and 64 bits wide (30_encoding.md R82, 92_eei_decisions.md D7). -/
abbrev fitsOperand (n : Nat) : Prop := n < 2 ^ 64

/-- The check of one instruction: its operand, if it has one, fits the field `CW[63:0]`. -/
def Instr.wellFormed : Instr → Bool
  | .update n => decide (fitsOperand n)
  | .finish outlen => decide (fitsOperand outlen)
  | .selectSha1 => true
  | .selectSha224 => true
  | .selectSha256 => true
  | .selectSha384 => true
  | .selectSha512 => true
  | .init => true
  | .padf => true
  | .padl => true
  | .sched1 => true
  | .cmp1 => true
  | .sched2w32 => true
  | .cmp2w32 => true
  | .sched2w64 => true
  | .cmp2w64 => true
  | .ser => true

/-- An instruction is well formed when the check passes. -/
abbrev Instr.WellFormed (i : Instr) : Prop := i.wellFormed = true

end Sys2Proof
end

