-- ==== Sys2Proof/Decode.lean ====
section
/-! DEFINITION. The decoder of the command port, the decoder of the sequencer's internal space, the
opcode table of 30_encoding.md R91, and the encoder. -/

namespace Sys2Proof

/-- `op = CW[71:68]` (30_encoding.md R80). -/
def opField (cw : CommandWord) : BitVec 4 := cw.extractLsb' 68 4

/-- `arg = CW[67:64]` (R80). -/
def argField (cw : CommandWord) : BitVec 4 := cw.extractLsb' 64 4

/-- `n = CW[63:0]` (R80, R82). -/
def nField (cw : CommandWord) : BitVec 64 := cw.extractLsb' 0 64

/-- The command word with the given fields (R80). -/
def commandWord (op arg : BitVec 4) (n : BitVec 64) : CommandWord := (op ++ arg) ++ n

/-- Whether a word presented on the command port is reserved (30_encoding.md R85, its cases in its
order). -/
def isReserved (cw : CommandWord) : Bool :=
  let op := opField cw
  let arg := argField cw
  let n := nField cw
  (op == 0x0#4 || op == 0x5#4 || op == 0x6#4 || op == 0x7#4 || 0x9#4 ≤ op)
    || (op == 0x1#4 && 5#4 ≤ arg)
    || (op == 0x1#4 && n != 0#64)
    || (op == 0x2#4 && (arg != 0#4 || n != 0#64))
    || ((op == 0x3#4 || op == 0x4#4) && arg != 0#4)
    || op == 0x8#4

/-- The command `SELECT.<alg>` of an algorithm code (30_encoding.md R84). -/
def selectOfCode (arg : BitVec 4) : Option Instr :=
  if arg = 0#4 then some .selectSha1
  else if arg = 1#4 then some .selectSha224
  else if arg = 2#4 then some .selectSha256
  else if arg = 3#4 then some .selectSha384
  else if arg = 4#4 then some .selectSha512
  else none

/-- The decoder of the command port: total on the 72 bits, `none` where the word is reserved
(30_encoding.md R92, its five steps in its order). -/
def decodeHost (cw : CommandWord) : Option Instr :=
  if isReserved cw then none
  else if opField cw = 0x1#4 then selectOfCode (argField cw)
  else if opField cw = 0x2#4 then some .init
  else if opField cw = 0x3#4 then some (.update (nField cw).toNat)
  else if opField cw = 0x4#4 then some (.finish (nField cw).toNat)
  else none

/-- The micro-operation of an index of the internal space (30_encoding.md R86). -/
def microOfIndex (arg : BitVec 4) : Option Instr :=
  if arg = 0#4 then some .padf
  else if arg = 1#4 then some .padl
  else if arg = 2#4 then some .sched1
  else if arg = 3#4 then some .cmp1
  else if arg = 4#4 then some .sched2w32
  else if arg = 5#4 then some .cmp2w32
  else if arg = 6#4 then some .sched2w64
  else if arg = 7#4 then some .cmp2w64
  else if arg = 8#4 then some .ser
  else none

/-- The decoder of the sequencer's internal space `op = 0x8`, whose words never come from the host
(30_encoding.md R86; `n` must be 0 by R81's format Z). -/
def decodeMicro (cw : CommandWord) : Option Instr :=
  if opField cw = 0x8#4 ∧ nField cw = 0#64 then microOfIndex (argField cw) else none

/-- The instruction a word stands for in spec/opcode_table.json: a host command as the command port
decodes it, else a micro-operation as the sequencer decodes it. -/
def decodeWord (cw : CommandWord) : Option Instr :=
  match decodeHost cw with
  | some i => some i
  | none => decodeMicro cw

/-- The `nbits` low bits of `w` as a command word, the bits above them 0; `none` where they do not fit
72 bits. -/
def tableWord (nbits w : Nat) : Option CommandWord :=
  if w % 2 ^ nbits < 2 ^ 72 then some (BitVec.ofNat 72 (w % 2 ^ nbits)) else none

/-- The decoder on a word numbered as spec/opcode_table.json numbers it (log entry 17). -/
def decodeTableWord (nbits w : Nat) : Option Instr :=
  match tableWord nbits w with
  | some cw => decodeWord cw
  | none => none

/-- One row of the opcode table: a word `X` selects it when `X AND mask = fixed` (30_encoding.md R91). -/
structure OpcodeRow where
  mnemonic : String
  fixed : CommandWord
  mask : CommandWord
deriving DecidableEq, Repr

/-- A word selects a row (30_encoding.md R91). -/
def OpcodeRow.selects (r : OpcodeRow) (cw : CommandWord) : Bool := cw &&& r.mask == r.fixed

/-- The rows of the host's commands (30_encoding.md R91, first table). -/
def hostRows : List OpcodeRow :=
  [⟨"SELECT.SHA1", 0x100000000000000000#72, 0xffffffffffffffffff#72⟩,
   ⟨"SELECT.SHA224", 0x110000000000000000#72, 0xffffffffffffffffff#72⟩,
   ⟨"SELECT.SHA256", 0x120000000000000000#72, 0xffffffffffffffffff#72⟩,
   ⟨"SELECT.SHA384", 0x130000000000000000#72, 0xffffffffffffffffff#72⟩,
   ⟨"SELECT.SHA512", 0x140000000000000000#72, 0xffffffffffffffffff#72⟩,
   ⟨"INIT", 0x200000000000000000#72, 0xffffffffffffffffff#72⟩,
   ⟨"UPDATE", 0x300000000000000000#72, 0xff0000000000000000#72⟩,
   ⟨"FINISH", 0x400000000000000000#72, 0xff0000000000000000#72⟩]

/-- The rows of the micro-operations (30_encoding.md R91, second table). -/
def microRows : List OpcodeRow :=
  [⟨"PADF", 0x800000000000000000#72, 0xffffffffffffffffff#72⟩,
   ⟨"PADL", 0x810000000000000000#72, 0xffffffffffffffffff#72⟩,
   ⟨"SCHED1", 0x820000000000000000#72, 0xffffffffffffffffff#72⟩,
   ⟨"CMP1", 0x830000000000000000#72, 0xffffffffffffffffff#72⟩,
   ⟨"SCHED2.32", 0x840000000000000000#72, 0xffffffffffffffffff#72⟩,
   ⟨"CMP2.32", 0x850000000000000000#72, 0xffffffffffffffffff#72⟩,
   ⟨"SCHED2.64", 0x860000000000000000#72, 0xffffffffffffffffff#72⟩,
   ⟨"CMP2.64", 0x870000000000000000#72, 0xffffffffffffffffff#72⟩,
   ⟨"SER", 0x880000000000000000#72, 0xffffffffffffffffff#72⟩]

/-- The row of an instruction, by its mnemonic. -/
def Instr.mnemonic : Instr → String
  | .selectSha1 => "SELECT.SHA1"
  | .selectSha224 => "SELECT.SHA224"
  | .selectSha256 => "SELECT.SHA256"
  | .selectSha384 => "SELECT.SHA384"
  | .selectSha512 => "SELECT.SHA512"
  | .init => "INIT"
  | .update _ => "UPDATE"
  | .finish _ => "FINISH"
  | .padf => "PADF"
  | .padl => "PADL"
  | .sched1 => "SCHED1"
  | .cmp1 => "CMP1"
  | .sched2w32 => "SCHED2.32"
  | .cmp2w32 => "CMP2.32"
  | .sched2w64 => "SCHED2.64"
  | .cmp2w64 => "CMP2.64"
  | .ser => "SER"

/-- The command word of an instruction (30_encoding.md R80, R83, R84, R86). -/
def encode : Instr → CommandWord
  | .selectSha1 => commandWord 0x1#4 0#4 0#64
  | .selectSha224 => commandWord 0x1#4 1#4 0#64
  | .selectSha256 => commandWord 0x1#4 2#4 0#64
  | .selectSha384 => commandWord 0x1#4 3#4 0#64
  | .selectSha512 => commandWord 0x1#4 4#4 0#64
  | .init => commandWord 0x2#4 0#4 0#64
  | .update n => commandWord 0x3#4 0#4 (BitVec.ofNat 64 n)
  | .finish outlen => commandWord 0x4#4 0#4 (BitVec.ofNat 64 outlen)
  | .padf => commandWord 0x8#4 0#4 0#64
  | .padl => commandWord 0x8#4 1#4 0#64
  | .sched1 => commandWord 0x8#4 2#4 0#64
  | .cmp1 => commandWord 0x8#4 3#4 0#64
  | .sched2w32 => commandWord 0x8#4 4#4 0#64
  | .cmp2w32 => commandWord 0x8#4 5#4 0#64
  | .sched2w64 => commandWord 0x8#4 6#4 0#64
  | .cmp2w64 => commandWord 0x8#4 7#4 0#64
  | .ser => commandWord 0x8#4 8#4 0#64

end Sys2Proof
end

