-- ==== Sys2Proof/Machine/Port.lean ====
section
/-! DEFINITION. The ports: what an event makes of a state before an instruction runs, and how a word is
placed where the next step takes it from. -/

namespace Sys2Proof.Machine

/-- What an accepted event asks for. -/
inductive Accepted where
  /-- Run an instruction on a state. -/
  | run (i : Instr) (s : State)
  /-- Nothing runs; this is the state. -/
  | settled (s : State)
  /-- The event is refused. -/
  | rejected (r : Refusal)
deriving DecidableEq, Repr

/-- A command word on the command port, with its `IN` (30_encoding.md R81, R85, R92). -/
def acceptCommand (word : CommandWord) (inp : Memory) (s : State) : Accepted :=
  match decodeHost word with
  | none => .rejected .reservedWord
  | some i => .run i (s.latchInput inp)

/-- A word of the internal space from the sequencer, with its operands (30_encoding.md R86). -/
def acceptMicro (word : CommandWord) (src : BlockSource) (outlen : Nat) (s : State) : Accepted :=
  match decodeMicro word with
  | none => .rejected .reservedWord
  | some i => .run i ((s.select src).latchOutlen outlen)

/-- The state without its oldest event: `rest` waits. -/
def State.waiting (rest : List Event) (s : State) : State := { s with pending := rest }

/-- What an event asks for. -/
def accept (e : Event) (s : State) : Accepted :=
  match e with
  | .command word inp => acceptCommand word inp s
  | .micro word src outlen => acceptMicro word src outlen s
  | .reset => .settled (hardwareReset s)
  | .output out => .settled (s.presetOutput out)

/-- The engine with nothing at its ports: it waits, and nothing changes (10_state.md R40, 60_exceptions.md
R246; log entry 2). -/
def idle (s : State) : State := s

/-- The event that brings a word to the port it belongs to: the sequencer's for the internal space
`op = 0x8`, else the command port. Its operands are those the state holds. -/
def eventOfWord (word : CommandWord) (s : State) : Event :=
  if opField word = 0x8#4 then .micro word s.src s.outlen else .command word s.inp

/-- One step of a machine whose instructions run as `run` says: the oldest event is taken and, if it is a
command or a micro-operation, its instruction runs to its end (00_scope.md R11, R12). -/
def stepBy (run : Instr → State → Host.Outcome State Fault Refusal) (s : State) :
    Host.Outcome State Fault Refusal :=
  match s.pending with
  | [] => .next (idle s)
  | e :: rest =>
    match accept e (s.waiting rest) with
    | .run i s' => run i s'
    | .settled s' => .next s'
    | .rejected r => .refused r

/-- A state with an event put before all that waits. -/
def placeFirst (e : Event) (s : State) : State := { s with pending := e :: s.pending }

/-- A state with a table word put where the next step takes it from; a number that is no 72-bit word
places the reserved word 0. -/
def placeTableWord (nbits w : Nat) (s : State) : State :=
  match tableWord nbits w with
  | some word => placeFirst (eventOfWord word s) s
  | none => placeFirst (.command 0#72 s.inp) s

end Sys2Proof.Machine
end

