-- ==== Sys2Proof/Machine/Step.lean ====
section
/-! DEFINITION. One step: the oldest event at the ports is taken and, if it is a command or a
micro-operation, its instruction runs to its end (00_scope.md R11). -/

namespace Sys2Proof.Machine

/-- One step (00_scope.md R11, R12; 10_state.md R33: there is no program counter and no fetch). -/
def step (s : State) : Host.Outcome State Fault Refusal := stepBy exec s

/-- The state in which the next step runs exactly the instruction of a table word (log entry 13). -/
def State.withFetchWord (s : State) (nbits w : Nat) : State := placeTableWord nbits w s

end Sys2Proof.Machine
end

