-- ==== Sys2Proof/Machine/Listing.lean ====
section
/-! DEFINITION. The textual syntax of the host commands and the pseudo-commands with their expansions
(30_encoding.md R88, R89). -/

namespace Sys2Proof.Machine

/-- The name of a variant in a listing (30_encoding.md R88). -/
def algText : Alg → String
  | .sha1 => "sha1"
  | .sha224 => "sha224"
  | .sha256 => "sha256"
  | .sha384 => "sha384"
  | .sha512 => "sha512"

/-- One hexadecimal digit. -/
def hexDigit (n : Nat) : Char := Nat.digitChar (n % 16)

/-- A byte string as hexadecimal digits, two per byte (30_encoding.md R88, 00_scope.md R9). -/
def hexText (bytes : List Byte) : String :=
  String.ofList (bytes.flatMap fun b => [hexDigit (b.toNat / 16), hexDigit b.toNat])

/-- Data bytes as a listing writes them: hexadecimal digits, or an empty quoted string for no bytes
(30_encoding.md R88, R89). -/
def dataText (data : List Byte) : String := if data = [] then "\"\"" else hexText data

/-- The line of a host command with its data bytes; a micro-operation has none (30_encoding.md R88). -/
def lineOf (data : List Byte) : Instr → Option String
  | .selectSha1 => some ("select " ++ algText .sha1)
  | .selectSha224 => some ("select " ++ algText .sha224)
  | .selectSha256 => some ("select " ++ algText .sha256)
  | .selectSha384 => some ("select " ++ algText .sha384)
  | .selectSha512 => some ("select " ++ algText .sha512)
  | .init => some "init"
  | .update n => some ("update " ++ toString n ++ " " ++ dataText data)
  | .finish outlen => some ("finish " ++ toString outlen)
  | .padf => none
  | .padl => none
  | .sched1 => none
  | .cmp1 => none
  | .sched2w32 => none
  | .cmp2w32 => none
  | .sched2w64 => none
  | .cmp2w64 => none
  | .ser => none

/-- The result as a listing shows it (30_encoding.md R88). -/
def resultText : Res → String
  | .ok => "-> OK"
  | .err => "-> ERR"

/-- The command that selects a variant (30_encoding.md R84). -/
def selectInstr : Alg → Instr
  | .sha1 => .selectSha1
  | .sha224 => .selectSha224
  | .sha256 => .selectSha256
  | .sha384 => .selectSha384
  | .sha512 => .selectSha512

/-- The pseudo-commands (30_encoding.md R89). -/
inductive PseudoCommand where
  /-- `new <alg>`. -/
  | new (a : Alg)
  /-- `reset`, the re-initialisation (not the hardware reset). -/
  | reset
  /-- `hash <alg> <n> <bytes>`. -/
  | hash (a : Alg) (bytes : List Byte)
  /-- `update 0 ""`. -/
  | updateEmpty
deriving DecidableEq, Repr

/-- The expansion: host commands, each with its data bytes (30_encoding.md R89). -/
def PseudoCommand.expand : PseudoCommand → List (Instr × List Byte)
  | .new a => [(selectInstr a, [])]
  | .reset => [(.init, [])]
  | .hash a bytes =>
    [(selectInstr a, []), (.update bytes.length, bytes), (.finish (digestSize a), [])]
  | .updateEmpty => [(.update 0, [])]

/-- A host command with its data bytes as an event at the ports (30_encoding.md R81). -/
def eventOf (c : Instr × List Byte) : Event := .command (encode c.1) (Memory.ofBytes c.2)

end Sys2Proof.Machine
end

