-- ==== Sys2Proof/Machine/Parameter.lean ====
section
/-! DEFINITION. The machine with the parameter `LEN_RESERVE` as an argument (00_scope.md R8, R13, 10_state.md
R41, 92_eei_decisions.md D14). `exec` and `step` are this machine at the spec's default (log entry 3). -/

namespace Sys2Proof.Machine

/-- An instruction at a value of `LEN_RESERVE`: `PADF` and `FINISH` depend on it, the others do not
(42_padding.md R154). -/
def execAt (lr : Config.LenReserve) (i : Instr) (s : State) : Host.Outcome State Fault Refusal :=
  match i with
  | .finish outlen => execFinishAt lr outlen s
  | .padf => execPadfAt lr s
  | .selectSha1 => exec .selectSha1 s
  | .selectSha224 => exec .selectSha224 s
  | .selectSha256 => exec .selectSha256 s
  | .selectSha384 => exec .selectSha384 s
  | .selectSha512 => exec .selectSha512 s
  | .init => exec .init s
  | .update n => exec (.update n) s
  | .padl => exec .padl s
  | .sched1 => exec .sched1 s
  | .cmp1 => exec .cmp1 s
  | .sched2w32 => exec .sched2w32 s
  | .cmp2w32 => exec .cmp2w32 s
  | .sched2w64 => exec .sched2w64 s
  | .cmp2w64 => exec .cmp2w64 s
  | .ser => exec .ser s

/-- One step at a value of `LEN_RESERVE`. -/
def stepAt (lr : Config.LenReserve) (s : State) : Host.Outcome State Fault Refusal :=
  stepBy (execAt lr) s

/-- The machine at a value of `LEN_RESERVE`, behind the host's interface. -/
def coreAt (lr : Config.LenReserve) : Host.Core where
  State := State
  Fault := Fault
  Refusal := Refusal
  step := stepAt lr
  reset := State.reset

end Sys2Proof.Machine
end

