-- ==== Sys2Proof/Machine/System.lean ====
section
/-! DEFINITION. A system of several engine instances: independent copies that share nothing mutable
(60_exceptions.md R254, 92_eei_decisions.md D28; log entry 15), with both parameters of the spec, `NCTX` and
`LEN_RESERVE`, as arguments. -/

namespace Sys2Proof.Machine

/-- One instance in a system: a running engine, or one that has stopped. -/
abbrev Context := Host.Outcome State Fault Refusal

/-- One step of an instance; one that has stopped stays as it is. -/
def stepContext (lr : Config.LenReserve) : Context → Context
  | .next s => stepAt lr s
  | .fault r => .fault r
  | .refused r => .refused r

/-- A system of `NCTX` instances. -/
abbrev System := List Context

/-- `NCTX` instances right after reset, each with its own reset (60_exceptions.md R254). Each starts at draw 0,
so that their free values are equal draw by draw (DESIGN CHOICE, log entry 16). -/
def System.reset (nctx : Nat) : System := List.replicate nctx (.next State.reset)

/-- One step of the instance at a place; an instance that is not there takes no step. -/
def System.stepOne (lr : Config.LenReserve) : System → Nat → System
  | [], _ => []
  | c :: cs, 0 => stepContext lr c :: cs
  | c :: cs, k + 1 => c :: System.stepOne lr cs k

/-- Any interleaving: at each entry of the schedule the instance it names takes a step (20_memory.md R67). -/
def System.run (lr : Config.LenReserve) (sys : System) (schedule : List Nat) : System :=
  schedule.foldl (System.stepOne lr) sys

/-- An instance on its own for a number of steps. -/
def runAlone (lr : Config.LenReserve) : Nat → Context → Context
  | 0, c => c
  | n + 1, c => runAlone lr n (stepContext lr c)

end Sys2Proof.Machine
end

