-- ==== Sys2Proof/Machine/Reference.lean ====
section
/-! DEFINITION. The digest of a whole message, in one piece: the padded message of 42_padding.md R163, cut
into blocks and compressed in order. The streaming commands are compared with it. -/

namespace Sys2Proof.Machine

/-- The whole blocks of a byte string, in order. -/
def blocksOf (size : Nat) (bytes : List Byte) : List (List Byte) :=
  (List.range (bytes.length / size)).map fun j => (bytes.drop (j * size)).take size

/-- The bytes after the last whole block. -/
def tailOf (size : Nat) (bytes : List Byte) : List Byte := bytes.drop (bytes.length / size * size)

/-- Blocks compressed one after another, each from the `H` the previous one left
(43_sha1_compression.md R178, 44_sha2_compression.md R201). -/
def compressAll (x : AlgH) (blocks : List (List Byte)) : AlgH := blocks.foldl AlgH.compress x

/-- What padding appends to a message of `length` bytes (42_padding.md R163); from `2^61` bytes on the length
field is free (log entry 26). -/
def paddingOf (lr : Config.LenReserve) (size length : Nat) : List Byte :=
  let off := length % size
  if lr size ≤ size - (off + 1) then
    marker :: (zeroBytes (size - 9 - off) ++ lengthField (8 * length))
  else
    marker :: (zeroBytes (size - 1 - off) ++ (zeroBytes (size - 8) ++ lengthField (8 * length)))

/-- The padded message (42_padding.md R163). -/
def paddedMessage (lr : Config.LenReserve) (size : Nat) (msg : List Byte) : List Byte :=
  msg ++ paddingOf lr size msg.length

/-- The digest of a message for a variant and a value of `LEN_RESERVE`. -/
def digestOfMessage (lr : Config.LenReserve) (a : Alg) (msg : List Byte) : List Byte :=
  (compressAll (AlgH.initial a) (blocksOf (blockSize a) (paddedMessage lr (blockSize a) msg))).digest

/-- The micro-operation that is the compression engine of a variant (46_selector_facade.md R236). -/
def engineInstr : Alg → Instr
  | .sha1 => .cmp1
  | .sha224 => .cmp2w32
  | .sha256 => .cmp2w32
  | .sha384 => .cmp2w64
  | .sha512 => .cmp2w64

end Sys2Proof.Machine
end

