-- ==== Sys2Proof/Safety.lean ====
section
/-! DEFINITION. What holds between two commands: the canonical form of the byte arrays, the invariants of
the context, and what a context has absorbed of a message. -/

namespace Sys2Proof.Machine

/-- The events that come from outside the engine; the sequencer's micro-operations are inside a command
(00_scope.md R11). -/
def Event.isOutside : Event → Bool
  | .command _ _ => true
  | .micro _ _ _ => false
  | .reset => true
  | .output _ => true

/-- The array an event brings is in canonical form. -/
abbrev Event.Canonical : Event → Prop
  | .command _ inp => inp.wf
  | .micro _ _ _ => True
  | .reset => True
  | .output out => out.wf

/-- Every byte array of a state is in canonical form. -/
structure MemoryCanonical (s : State) : Prop where
  buf : s.buf.wf
  inp : s.inp.wf
  out : s.out.wf
  pending : ∀ e ∈ s.pending, e.Canonical

/-- The invariants of the context between commands. -/
structure ContextInv (s : State) : Prop where
  /-- A variant is selected in every phase but UNSEL (10_state.md R28, R38). -/
  selected : s.phase ≠ .unsel → s.alg ≠ none
  /-- `BUF` has `B` bytes and no more (10_state.md R25). -/
  inside : s.buf.below s.algH.bufSize
  /-- `fill < B` in phase READY (10_state.md R24). -/
  fillBelow : s.phase = .ready → s.fill < s.algH.bufSize
  /-- The bytes of `BUF` from `fill` on are zero in phase READY (10_state.md R26). -/
  tailZero : s.phase = .ready → ∀ i, s.fill ≤ i → s.buf.read i = 0#8
  /-- `fill = count mod B` in phase READY (10_state.md R27). -/
  fillIsCount : s.phase = .ready → s.fill = s.count.toNat % s.algH.bufSize
  /-- `RES` is OK in phases READY and DONE (10_state.md R29). -/
  resultOk : s.phase = .ready ∨ s.phase = .done → s.res = .ok
  /-- `RES` is ERR in phase FAILED (60_exceptions.md R248). -/
  resultErr : s.phase = .failed → s.res = .err

/-- The invariant of a run that the host drives. -/
structure Inv (s : State) : Prop where
  memory : MemoryCanonical s
  context : ContextInv s
  /-- No transient value of the padding engine or of a command's operands is left (10_state.md R32, R41; the
  values at rest are those of log entry 23). -/
  report : s.padReport = .noValue
  source : s.src = .buf
  operand : s.outlen = 0
  outside : ∀ e ∈ s.pending, e.isOutside = true

/-- A context in phase READY that has taken in the bytes `msg` for the variant `a` since `init`: the
whole blocks are compressed, the rest stands in `BUF`, and `count` is the length. -/
structure Absorbed (a : Alg) (msg : List Byte) (s : State) : Prop where
  phase : s.phase = .ready
  chaining : s.algH = compressAll (AlgH.initial a) (blocksOf (blockSize a) msg)
  count : s.count.toNat = msg.length
  fill : s.fill = msg.length % blockSize a
  tail : s.buf.readBytes 0 s.fill = tailOf (blockSize a) msg
  zero : ∀ i, s.fill ≤ i → s.buf.read i = 0#8

end Sys2Proof.Machine
end

