-- ==== Sys2Proof/Certificates/Slice0/Obligations.lean ====
section
/-! DEFINITION. The statements for the provers. Each docstring names the rules of spec/ it rests on. The
frame of an instruction is written `t = { s with x := t.x, … }`: every field not named there is as before. -/

open Sys2Proof Sys2Proof.Machine

/-! ## Encoding -/

/-- Decoding the word of a well-formed instruction gives the instruction back; a host command is read on
the command port, a micro-operation by the sequencer alone (30_encoding.md R80, R83, R84, R86, R92). -/
def Obligations.DecodeEncodeRoundTrip : Prop :=
  ∀ i : Instr, i.WellFormed →
    decodeWord (encode i) = some i
      ∧ (i.isHost = true → decodeHost (encode i) = some i)
      ∧ (i.isHost = false → decodeMicro (encode i) = some i ∧ decodeHost (encode i) = none)

/-- Every word has at most one meaning and no bit of it is ignored: a word that decodes is the encoding of
the well-formed instruction it decodes to (30_encoding.md R85, R92). -/
def Obligations.DecodedWordIsItsEncoding : Prop :=
  ∀ (cw : CommandWord) (i : Instr), decodeWord cw = some i → i.WellFormed ∧ encode i = cw

/-- The decoders accept exactly the words that select a row of the opcode table, with the row's mnemonic,
and no word selects two rows (30_encoding.md R91). -/
def Obligations.DecodersFollowOpcodeTable : Prop :=
  (∀ (cw : CommandWord) (i : Instr), decodeHost cw = some i →
      ∃ r ∈ hostRows, r.mnemonic = i.mnemonic ∧ r.selects cw = true)
    ∧ (∀ (cw : CommandWord), ∀ r ∈ hostRows, r.selects cw = true →
      ∃ i, decodeHost cw = some i ∧ i.mnemonic = r.mnemonic)
    ∧ (∀ (cw : CommandWord) (i : Instr), decodeMicro cw = some i →
      ∃ r ∈ microRows, r.mnemonic = i.mnemonic ∧ r.selects cw = true)
    ∧ (∀ (cw : CommandWord), ∀ r ∈ microRows, r.selects cw = true →
      ∃ i, decodeMicro cw = some i ∧ i.mnemonic = r.mnemonic)
    ∧ (hostRows ++ microRows).Pairwise
        (fun r q => ∀ cw : CommandWord, ¬ (r.selects cw = true ∧ q.selects cw = true))

/-- The reserved words of 30_encoding.md R85, said of the word as a number, are exactly those that the
command port does not decode, and a reserved word is refused in every state. -/
def Obligations.ReservedWordsAreRefused : Prop :=
  ∀ (cw : CommandWord) (op arg n : Nat),
    op = cw.toNat / 2 ^ 68 → arg = cw.toNat / 2 ^ 64 % 16 → n = cw.toNat % 2 ^ 64 →
    (decodeHost cw = none ↔
        ((op = 0 ∨ op = 5 ∨ op = 6 ∨ op = 7 ∨ 9 ≤ op)
          ∨ (op = 1 ∧ 5 ≤ arg)
          ∨ (op = 1 ∧ n ≠ 0)
          ∨ (op = 2 ∧ (arg ≠ 0 ∨ n ≠ 0))
          ∨ ((op = 3 ∨ op = 4) ∧ arg ≠ 0)
          ∨ op = 8))
      ∧ (decodeHost cw = none → ∀ (s : State) (inp : Memory) (rest : List Event),
          s.pending = .command cw inp :: rest → step s = .refused .reservedWord)

/-- Words of 95_test_vectors.md V5 and of 30_encoding.md R91, and what they decode to. -/
def Obligations.KnownWordsDecode : Prop :=
  decodeHost 0x100000000000000000#72 = some .selectSha1
    ∧ decodeHost 0x140000000000000000#72 = some .selectSha512
    ∧ decodeHost 0x150000000000000000#72 = none
    ∧ decodeHost 0x200000000000000000#72 = some .init
    ∧ decodeHost 0x300000000000000003#72 = some (.update 3)
    ∧ decodeHost 0x30ffffffffffffffff#72 = some (.update (2 ^ 64 - 1))
    ∧ decodeHost 0x400000000000000014#72 = some (.finish 20)
    ∧ decodeHost 0x830000000000000000#72 = none
    ∧ decodeMicro 0x800000000000000000#72 = some .padf
    ∧ decodeMicro 0x830000000000000000#72 = some .cmp1
    ∧ decodeMicro 0x880000000000000000#72 = some .ser

/-! ## The step -/

/-- A step takes the oldest event: a command word runs the command it decodes to, with its `IN` latched; a
word of the sequencer runs its micro-operation, with its operands latched; a reset and a new content of
`OUT` run nothing; with no event the engine waits (00_scope.md R11; the queue of events, the wait and the
sequencer's port are the model's choice, log entries 1 and 2). -/
def Obligations.StepRunsDecodedInstruction : Prop :=
  ∀ (s : State) (rest : List Event),
    (∀ (cw : CommandWord) (inp : Memory) (i : Instr), s.pending = .command cw inp :: rest →
        decodeHost cw = some i → step s = exec i { s with pending := rest, inp := inp })
      ∧ (∀ (cw : CommandWord) (src : BlockSource) (outlen : Nat) (i : Instr),
          s.pending = .micro cw src outlen :: rest → decodeMicro cw = some i →
          step s = exec i { s with pending := rest, src := src, outlen := outlen })
      ∧ (s.pending = .reset :: rest → step s = .next (hardwareReset { s with pending := rest }))
      ∧ (∀ out : Memory, s.pending = .output out :: rest →
          step s = .next { s with pending := rest, out := out })
      ∧ (s.pending = [] → step s = .next s)

/-- A well-formed instruction's word, placed where the next step takes it from, is run by that step and
changes nothing else: on every state the step is `exec` of the instruction (log entry 13), and at every value of
`LEN_RESERVE` it is the instruction at that value (00_scope.md R13). -/
def Obligations.PlacedWordRunsItsInstruction : Prop :=
  ∀ (i : Instr) (s : State), i.WellFormed →
    step (s.withFetchWord 72 (encode i).toNat) = exec i s
      ∧ ∀ lr : Config.LenReserve, stepAt lr (s.withFetchWord 72 (encode i).toNat) = execAt lr i s

/-! ## Legality -/

/-- `INIT` is legal in READY, DONE and FAILED, `UPDATE` and `FINISH` in READY alone; in any other phase the
command is refused (41_streaming_engine.md R126). -/
def Obligations.LegalPhases : Prop :=
  ∀ s : State,
    (s.phase = .unsel → exec .init s = .refused .initBeforeSelect)
      ∧ (s.phase ≠ .unsel → s.alg ≠ none →
          ∃ t, exec .init s = .next t ∧ t.phase = .ready ∧ t.res = .ok)
      ∧ (∀ n, s.phase = .unsel → exec (.update n) s = .refused .useBeforeInit)
      ∧ (∀ n, s.phase = .done → exec (.update n) s = .refused .useAfterFinish)
      ∧ (∀ n, s.phase = .failed → exec (.update n) s = .refused .useAfterFailure)
      ∧ (∀ n, s.phase = .ready → s.alg ≠ none → s.count.toNat + n < 2 ^ 64 →
          ∃ t, exec (.update n) s = .next t ∧ t.phase = .ready ∧ t.res = .ok)
      ∧ (∀ n, s.phase = .unsel → exec (.finish n) s = .refused .useBeforeInit)
      ∧ (∀ n, s.phase = .done → exec (.finish n) s = .refused .useAfterFinish)
      ∧ (∀ n, s.phase = .failed → exec (.finish n) s = .refused .useAfterFailure)
      ∧ (∀ n, s.phase = .ready → s.alg ≠ none →
          ∃ t, exec (.finish n) s = .next t
            ∧ ((t.phase = .done ∧ t.res = .ok) ∨ (t.phase = .failed ∧ t.res = .err)))

/-- Where a block size, a digest size or an engine is needed and no variant is selected, or the engine is
not the selected one, the instruction is refused by name (10_state.md R29; log entry 14). -/
def Obligations.StopsWithoutTheConfiguration : Prop :=
  (∀ (s : State) (n : Nat), s.alg = none →
      exec .padf s = .refused .noVariant ∧ exec .padl s = .refused .noVariant
        ∧ exec .ser s = .refused .noVariant
        ∧ (s.phase ≠ .unsel → exec .init s = .refused .noVariant)
        ∧ (s.phase = .ready → exec (.update n) s = .refused .noVariant
            ∧ exec (.finish n) s = .refused .noVariant))
    ∧ (∀ s : State, s.alg ≠ some .sha1 → exec .cmp1 s = .refused .engineNotSelected)
    ∧ (∀ s : State, s.alg ≠ some .sha224 → s.alg ≠ some .sha256 →
        exec .cmp2w32 s = .refused .engineNotSelected)
    ∧ (∀ s : State, s.alg ≠ some .sha384 → s.alg ≠ some .sha512 →
        exec .cmp2w64 s = .refused .engineNotSelected)

/-! ## SELECT and INIT -/

/-- `SELECT.<alg>` runs in every state: it sets `alg` and does what `INIT` does; the transients of the last
command are gone, and nothing else changes (46_selector_facade.md R230, 10_state.md R32; the transients' values
at rest are the model's choice, log entry 23). -/
def Obligations.SelectConstructsContext : Prop :=
  ∀ (a : Alg) (s : State),
    exec (selectInstr a) s = .next { s with
      algH := AlgH.initial a, count := 0#64, fill := 0, buf := Memory.zeros,
      phase := .ready, res := .ok, padReport := .noValue, src := .buf, outlen := 0 }

/-- `INIT`: `count` and `fill` are 0, every byte of `BUF` is 0, `H` is the initial vector of `alg`, `phase`
is READY, `RES` is OK; `alg` and all else but the transients of 10_state.md R32 are unchanged
(41_streaming_engine.md R127). -/
def Obligations.InitResetsContext : Prop :=
  ∀ (a : Alg) (s : State), s.phase ≠ .unsel → s.alg = some a →
    ∃ t, exec .init s = .next t ∧ t.count = 0#64 ∧ t.fill = 0 ∧ (∀ i, t.buf.read i = 0#8)
      ∧ t.algH = AlgH.initial a ∧ t.alg = some a ∧ t.phase = .ready ∧ t.res = .ok
      ∧ t = { s with
          algH := t.algH, count := t.count, fill := t.fill, buf := t.buf, phase := t.phase,
          res := t.res, padReport := t.padReport, src := t.src, outlen := t.outlen }

/-- The initial vectors (46_selector_facade.md R231 to R235; the spec takes the values from general
knowledge, G15). -/
def Obligations.InitialVectorValues : Prop :=
  AlgH.initial .sha1
      = .sha1 ⟨0x67452301#32, 0xefcdab89#32, 0x98badcfe#32, 0x10325476#32, 0xc3d2e1f0#32⟩
    ∧ AlgH.initial .sha224
      = .sha224 ⟨0xc1059ed8#32, 0x367cd507#32, 0x3070dd17#32, 0xf70e5939#32,
          0xffc00b31#32, 0x68581511#32, 0x64f98fa7#32, 0xbefa4fa4#32⟩
    ∧ AlgH.initial .sha256
      = .sha256 ⟨0x6a09e667#32, 0xbb67ae85#32, 0x3c6ef372#32, 0xa54ff53a#32,
          0x510e527f#32, 0x9b05688c#32, 0x1f83d9ab#32, 0x5be0cd19#32⟩
    ∧ AlgH.initial .sha384
      = .sha384 ⟨0xcbbb9d5dc1059ed8#64, 0x629a292a367cd507#64, 0x9159015a3070dd17#64,
          0x152fecd8f70e5939#64, 0x67332667ffc00b31#64, 0x8eb44a8768581511#64,
          0xdb0c2e0d64f98fa7#64, 0x47b5481dbefa4fa4#64⟩
    ∧ AlgH.initial .sha512
      = .sha512 ⟨0x6a09e667f3bcc908#64, 0xbb67ae8584caa73b#64, 0x3c6ef372fe94f82b#64,
          0xa54ff53a5f1d36f1#64, 0x510e527fade682d1#64, 0x9b05688c2b3e6c1f#64,
          0x1f83d9abfb41bd6b#64, 0x5be0cd19137e2179#64⟩

/-- The round constants `K256[t]` and `K512[t]` that the two widths of SHA-2 use, and their numbers of rounds
(44_sha2_compression.md R196, R197, R199; the spec takes the values from general knowledge, G12, G13; log entry
18). -/
def Obligations.RoundConstantValues : Prop :=
  width32.rounds = 64 ∧ width64.rounds = 80
    ∧ width32.constants.length = 64 ∧ width64.constants.length = 80
    ∧ width32.constants
      = [0x428a2f98#32, 0x71374491#32, 0xb5c0fbcf#32, 0xe9b5dba5#32, 0x3956c25b#32, 0x59f111f1#32]
        ++ [0x923f82a4#32, 0xab1c5ed5#32, 0xd807aa98#32, 0x12835b01#32, 0x243185be#32, 0x550c7dc3#32]
        ++ [0x72be5d74#32, 0x80deb1fe#32, 0x9bdc06a7#32, 0xc19bf174#32, 0xe49b69c1#32, 0xefbe4786#32]
        ++ [0x0fc19dc6#32, 0x240ca1cc#32, 0x2de92c6f#32, 0x4a7484aa#32, 0x5cb0a9dc#32, 0x76f988da#32]
        ++ [0x983e5152#32, 0xa831c66d#32, 0xb00327c8#32, 0xbf597fc7#32, 0xc6e00bf3#32, 0xd5a79147#32]
        ++ [0x06ca6351#32, 0x14292967#32, 0x27b70a85#32, 0x2e1b2138#32, 0x4d2c6dfc#32, 0x53380d13#32]
        ++ [0x650a7354#32, 0x766a0abb#32, 0x81c2c92e#32, 0x92722c85#32, 0xa2bfe8a1#32, 0xa81a664b#32]
        ++ [0xc24b8b70#32, 0xc76c51a3#32, 0xd192e819#32, 0xd6990624#32, 0xf40e3585#32, 0x106aa070#32]
        ++ [0x19a4c116#32, 0x1e376c08#32, 0x2748774c#32, 0x34b0bcb5#32, 0x391c0cb3#32, 0x4ed8aa4a#32]
        ++ [0x5b9cca4f#32, 0x682e6ff3#32, 0x748f82ee#32, 0x78a5636f#32, 0x84c87814#32, 0x8cc70208#32]
        ++ [0x90befffa#32, 0xa4506ceb#32, 0xbef9a3f7#32, 0xc67178f2#32]
    ∧ width64.constants
      = [0x428a2f98d728ae22#64, 0x7137449123ef65cd#64, 0xb5c0fbcfec4d3b2f#64, 0xe9b5dba58189dbbc#64]
        ++ [0x3956c25bf348b538#64, 0x59f111f1b605d019#64, 0x923f82a4af194f9b#64, 0xab1c5ed5da6d8118#64]
        ++ [0xd807aa98a3030242#64, 0x12835b0145706fbe#64, 0x243185be4ee4b28c#64, 0x550c7dc3d5ffb4e2#64]
        ++ [0x72be5d74f27b896f#64, 0x80deb1fe3b1696b1#64, 0x9bdc06a725c71235#64, 0xc19bf174cf692694#64]
        ++ [0xe49b69c19ef14ad2#64, 0xefbe4786384f25e3#64, 0x0fc19dc68b8cd5b5#64, 0x240ca1cc77ac9c65#64]
        ++ [0x2de92c6f592b0275#64, 0x4a7484aa6ea6e483#64, 0x5cb0a9dcbd41fbd4#64, 0x76f988da831153b5#64]
        ++ [0x983e5152ee66dfab#64, 0xa831c66d2db43210#64, 0xb00327c898fb213f#64, 0xbf597fc7beef0ee4#64]
        ++ [0xc6e00bf33da88fc2#64, 0xd5a79147930aa725#64, 0x06ca6351e003826f#64, 0x142929670a0e6e70#64]
        ++ [0x27b70a8546d22ffc#64, 0x2e1b21385c26c926#64, 0x4d2c6dfc5ac42aed#64, 0x53380d139d95b3df#64]
        ++ [0x650a73548baf63de#64, 0x766a0abb3c77b2a8#64, 0x81c2c92e47edaee6#64, 0x92722c851482353b#64]
        ++ [0xa2bfe8a14cf10364#64, 0xa81a664bbc423001#64, 0xc24b8b70d0f89791#64, 0xc76c51a30654be30#64]
        ++ [0xd192e819d6ef5218#64, 0xd69906245565a910#64, 0xf40e35855771202a#64, 0x106aa07032bbd1b8#64]
        ++ [0x19a4c116b8d2d0c8#64, 0x1e376c085141ab53#64, 0x2748774cdf8eeb99#64, 0x34b0bcb5e19b48a8#64]
        ++ [0x391c0cb3c5c95a63#64, 0x4ed8aa4ae3418acb#64, 0x5b9cca4f7763e373#64, 0x682e6ff3d6b2b8a3#64]
        ++ [0x748f82ee5defb2fc#64, 0x78a5636f43172f60#64, 0x84c87814a1f0ab72#64, 0x8cc702081a6439ec#64]
        ++ [0x90befffa23631e28#64, 0xa4506cebde82bde9#64, 0xbef9a3f7b2c67915#64, 0xc67178f2e372532b#64]
        ++ [0xca273eceea26619c#64, 0xd186b8c721c0c207#64, 0xeada7dd6cde0eb1e#64, 0xf57d4f7fee6ed178#64]
        ++ [0x06f067aa72176fba#64, 0x0a637dc5a2c898a6#64, 0x113f9804bef90dae#64, 0x1b710b35131c471b#64]
        ++ [0x28db77f523047d84#64, 0x32caab7b40c72493#64, 0x3c9ebe0a15c9bebc#64, 0x431d67c49c100d4c#64]
        ++ [0x4cc5d4becb3e42b6#64, 0x597f299cfc657e2a#64, 0x5fcb6fab3ad6faec#64, 0x6c44198c4a475817#64]

/-- The parameters of the five configurations: `B`, `DS`, `SW`, `w`, `NW` and `NWD` (00_scope.md R6,
46_selector_facade.md R236). -/
def Obligations.ConfigurationParameters : Prop :=
  ∀ a : Alg,
    (blockSize a, digestSize a, stateWidth a, wordBits a, scheduleLength a, wordsSerialized a)
      = match a with
        | .sha1 => (64, 20, 5, 32, 80, 5)
        | .sha224 => (64, 28, 8, 32, 64, 7)
        | .sha256 => (64, 32, 8, 32, 64, 8)
        | .sha384 => (128, 48, 8, 64, 80, 6)
        | .sha512 => (128, 64, 8, 64, 80, 8)

/-- `INIT` and `SELECT` forget: two states, whatever they hold, have the same context afterwards when the
same variant is initialised (41_streaming_engine.md R127, 60_exceptions.md R250). -/
def Obligations.InitForgetsThePast : Prop :=
  ∀ (a : Alg) (s u t v : State) (i j : Instr),
    (i = .init ∧ s.alg = some a ∨ i = selectInstr a) → (j = .init ∧ u.alg = some a ∨ j = selectInstr a) →
    exec i s = .next t → exec j u = .next v →
    t.algH = v.algH ∧ t.count = v.count ∧ t.fill = v.fill ∧ t.buf = v.buf ∧ t.phase = v.phase
      ∧ t.res = v.res

/-! ## UPDATE -/

/-- An empty `UPDATE` in phase READY changes nothing of the context but `RES`; no transient is left
(41_streaming_engine.md R129, 10_state.md R32; the transients' values at rest are the model's choice, log entry
23). -/
def Obligations.EmptyUpdateChangesNothing : Prop :=
  ∀ s : State, s.phase = .ready → s.alg ≠ none →
    exec (.update 0) s = .next { s with res := .ok, padReport := .noValue, src := .buf, outlen := 0 }

/-- An `UPDATE` that would make `count` reach `2^64` is refused (41_streaming_engine.md R130). -/
def Obligations.CountOverflowIsRefused : Prop :=
  ∀ (n : Nat) (s : State), s.phase = .ready → s.alg ≠ none → 2 ^ 64 ≤ s.count.toNat + n →
    exec (.update n) s = .refused .countOverflow

/-- `UPDATE` of bytes that fill no block: they are appended to `BUF` at `fill`, `fill` and `count` grow by
`n`, no compression occurs and nothing else but the transients of 10_state.md R32 changes
(41_streaming_engine.md R131). -/
def Obligations.UpdateWithoutFullBlock : Prop :=
  ∀ (a : Alg) (n : Nat) (s : State), s.phase = .ready → s.alg = some a → s.buf.wf → 0 < n →
    s.fill + n < blockSize a → s.count.toNat + n < 2 ^ 64 →
    ∃ t, exec (.update n) s = .next t
      ∧ t = { s with
          count := t.count, fill := t.fill, buf := t.buf, res := .ok,
          padReport := t.padReport, src := t.src, outlen := t.outlen }
      ∧ t.count.toNat = s.count.toNat + n ∧ t.fill = s.fill + n
      ∧ ∀ i, t.buf.read i =
          if s.fill ≤ i ∧ i < s.fill + n then s.inp.read (i - s.fill) else s.buf.read i

/-- `UPDATE` of bytes that fill a block: the whole blocks among the bytes in `BUF` and the new ones are
compressed in order, `(fill + n) div B` of them; the remainder stands in `BUF`, zeros after it
(41_streaming_engine.md R132 to R135). -/
def Obligations.UpdateCompressesWholeBlocks : Prop :=
  ∀ (a : Alg) (n : Nat) (s : State), s.phase = .ready → s.alg = some a → s.buf.wf →
    s.fill < blockSize a → blockSize a ≤ s.fill + n → s.count.toNat + n < 2 ^ 64 →
    ∃ (t : State) (blocks : List (List Byte)), exec (.update n) s = .next t
      ∧ t = { s with
          algH := t.algH, count := t.count, fill := t.fill, buf := t.buf, res := .ok,
          sched := t.sched, work := t.work, padReport := t.padReport, src := t.src,
          outlen := t.outlen }
      ∧ blocks = blocksOf (blockSize a) (s.buf.readBytes 0 s.fill ++ s.inp.readBytes 0 n)
      ∧ blocks.length = (s.fill + n) / blockSize a
      ∧ t.algH = compressAll s.algH blocks
      ∧ t.count.toNat = s.count.toNat + n ∧ t.fill = (s.fill + n) % blockSize a
      ∧ ∀ i, t.buf.read i =
          if i < t.fill then s.inp.read (n - t.fill + i) else 0#8

/-- `UPDATE` in every form it completes in: it never answers ERR, stays in READY, keeps `alg` and writes
neither `OUT` nor the ports (41_streaming_engine.md R135, 60_exceptions.md R245). -/
def Obligations.UpdateNeverFails : Prop :=
  ∀ (n : Nat) (s t : State), exec (.update n) s = .next t →
    t.res = .ok ∧ t.phase = .ready ∧ t.alg = s.alg ∧ t.count.toNat = s.count.toNat + n
      ∧ t = { s with
          algH := t.algH, count := t.count, fill := t.fill, buf := t.buf, res := t.res,
          sched := t.sched, work := t.work, padReport := t.padReport, src := t.src,
          outlen := t.outlen }

/-- Chunking invariance: feeding `X` and then `Y` leaves the same `H`, `count`, `fill` and `BUF` as feeding
`X` followed by `Y` in one `UPDATE` (41_streaming_engine.md R135, 20_memory.md R56). -/
def Obligations.ChunkingInvariance : Prop :=
  ∀ (s : State) (xs ys : List Byte), Inv s → s.phase = .ready →
    s.count.toNat + xs.length + ys.length < 2 ^ 64 →
    ∃ t u v, exec (.update xs.length) { s with inp := Memory.ofBytes xs } = .next t
      ∧ exec (.update ys.length) { t with inp := Memory.ofBytes ys } = .next u
      ∧ exec (.update (xs.length + ys.length)) { s with inp := Memory.ofBytes (xs ++ ys) } = .next v
      ∧ u.algH = v.algH ∧ u.count = v.count ∧ u.fill = v.fill ∧ u.buf = v.buf
      ∧ u.phase = v.phase ∧ u.res = v.res

/-! ## The whole message -/

/-- A context just constructed or initialised has absorbed the empty message (41_streaming_engine.md R127,
46_selector_facade.md R230). -/
def Obligations.SelectAbsorbsNothing : Prop :=
  ∀ (a : Alg) (s t : State),
    (exec (selectInstr a) s = .next t ∨ s.alg = some a ∧ exec .init s = .next t) → Absorbed a [] t

/-- `UPDATE` appends its input to the message that the context has absorbed, whatever the length
(41_streaming_engine.md R128 to R134). -/
def Obligations.UpdateAbsorbsItsInput : Prop :=
  ∀ (a : Alg) (msg : List Byte) (n : Nat) (s : State), Absorbed a msg s → s.buf.wf →
    s.count.toNat + n < 2 ^ 64 →
    ∃ t, exec (.update n) s = .next t ∧ t.buf.wf
      ∧ Absorbed a (msg ++ s.inp.readBytes 0 n) t

/-- `FINISH` on a context that has absorbed a message writes the digest of the padded message, cut to
`min(outlen, DS)` bytes, to `OUT`, and every other byte of `OUT` is unchanged (42_padding.md R163,
45_digest_serializer.md R224, at the default `LEN_RESERVE`, log entry 3). -/
def Obligations.FinishEmitsDigestOfMessage : Prop :=
  ∀ (a : Alg) (msg : List Byte) (outlen : Nat) (s : State), Absorbed a msg s → s.buf.wf → s.out.wf →
    msg.length < 2 ^ 61 →
    ∃ t, exec (.finish outlen) s = .next t ∧ t.phase = .done ∧ t.res = .ok ∧ t.count = s.count
      ∧ t.alg = some a
      ∧ ∀ i, t.out.read i =
          if i < min outlen (digestSize a) then (digestOfMessage lenReserve a msg).getD i 0#8
          else s.out.read i

/-- The same for every value of the parameter that the spec allows, of the machine that takes it as an argument
(00_scope.md R13, 42_padding.md R163). -/
def Obligations.DigestForEveryLenReserve : Prop :=
  ∀ (lr : Config.LenReserve) (a : Alg) (msg : List Byte) (outlen : Nat) (s : State), lr.Legal →
    Absorbed a msg s → s.buf.wf → s.out.wf → msg.length < 2 ^ 61 →
    ∃ t, execAt lr (.finish outlen) s = .next t ∧ t.phase = .done ∧ t.res = .ok ∧ t.count = s.count
      ∧ t.alg = some a
      ∧ ∀ i, t.out.read i =
          if i < min outlen (digestSize a) then (digestOfMessage lr a msg).getD i 0#8
          else s.out.read i

/-- The machine at the default `LEN_RESERVE` is the machine of `exec` and `step` (log entry 3), and only `PADF` and
`FINISH` depend on the parameter (00_scope.md R13, 42_padding.md R154). -/
def Obligations.ParameterTouchesPaddingAlone : Prop :=
  (∀ (i : Instr) (s : State), execAt lenReserve i s = exec i s)
    ∧ (∀ s : State, stepAt lenReserve s = step s)
    ∧ (∀ (lr : Config.LenReserve) (i : Instr) (s : State), (∀ n, i ≠ .finish n) → i ≠ .padf →
        execAt lr i s = exec i s)

/-! ## FINISH -/

/-- `FINISH` answers ERR exactly where the bit length overflows, that is from `count = 2^61` on; then
`phase` is FAILED, `alg` is kept and no byte of `OUT` is written. Nothing is said of `H`, `count`, `fill`
and `BUF`, which are free. That `W` and the working variables are as before is the model's choice (log entry 6;
60_exceptions.md R241, R248, 41_streaming_engine.md R141). -/
def Obligations.FinishFailsExactlyOnOverflow : Prop :=
  ∀ (a : Alg) (outlen : Nat) (s : State), s.phase = .ready → s.alg = some a →
    ∃ t, exec (.finish outlen) s = .next t
      ∧ (t.res = .err ↔ 2 ^ 61 ≤ s.count.toNat)
      ∧ (2 ^ 61 ≤ s.count.toNat → t.phase = .failed ∧ t.alg = some a
          ∧ t = { s with
              algH := t.algH, count := t.count, fill := t.fill, buf := t.buf, phase := .failed,
              res := .err, padReport := t.padReport, src := t.src, outlen := t.outlen,
              freeCtr := t.freeCtr })

/-- `FINISH` where it returns OK: the digest in `OUT` is the serialization of the `H` it leaves, `count`,
`alg`, `IN` and the ports are unchanged; `fill` is free (log entry 5; 41_streaming_engine.md R136,
R140, R142). -/
def Obligations.FinishWritesTheDigest : Prop :=
  ∀ (a : Alg) (outlen : Nat) (s : State), s.phase = .ready → s.alg = some a → s.out.wf →
    s.count.toNat < 2 ^ 61 →
    ∃ t, exec (.finish outlen) s = .next t ∧ t.alg = some a
      ∧ t = { s with
          algH := t.algH, fill := t.fill, buf := t.buf, out := t.out, phase := .done, res := .ok,
          sched := t.sched, work := t.work, padReport := t.padReport, src := t.src,
          outlen := t.outlen, freeCtr := t.freeCtr }
      ∧ ∀ i, t.out.read i =
          if i < min outlen (digestSize a) then t.algH.digest.getD i 0#8 else s.out.read i

/-- The bytes of `BUF` after an OK `FINISH`, and the blocks it compresses: one where the length field fits
after the marker, else two; written with the default `LEN_RESERVE` (log entry 3), for which the field fits exactly
when `off ≤ B - 9` (20_memory.md R60, 41_streaming_engine.md R137 to R139, 42_padding.md R154). -/
def Obligations.FinishPadsInOneOrTwoBlocks : Prop :=
  ∀ (a : Alg) (outlen size off : Nat) (s : State), s.phase = .ready → s.alg = some a → s.buf.wf →
    s.count.toNat < 2 ^ 61 → size = blockSize a → off = s.count.toNat % size →
    ∃ t, exec (.finish outlen) s = .next t
      ∧ (off ≤ size - 9 →
          t.algH = s.algH.compress (t.buf.readBytes 0 size)
            ∧ ∀ i < size, t.buf.read i =
                if i < off then s.buf.read i
                else if i = off then 0x80#8
                else if i < size - 8 then 0#8
                else BitVec.ofNat 8 (s.count.toNat * 8 / 2 ^ (8 * (size - 1 - i))))
      ∧ (size - 9 < off →
          t.algH = (s.algH.compress
              (s.buf.readBytes 0 off ++ 0x80#8 :: List.replicate (size - 1 - off) 0#8)).compress
              (t.buf.readBytes 0 size)
            ∧ ∀ i < size, t.buf.read i =
                if i < size - 8 then 0#8
                else BitVec.ofNat 8 (s.count.toNat * 8 / 2 ^ (8 * (size - 1 - i))))

/-- `FINISH` is its micro-operations in sequence: `PADF`, then, if a second block is needed, the engine and
`PADL` on a cleared buffer, then the engine and `SER`; at the end `phase` and `RES` are set and `fill` is
left free (log entry 5). That the micro-operations run one by one is the model's choice (log entry 1;
41_streaming_engine.md R136, 30_encoding.md R86). -/
def Obligations.FinishIsItsMicroOperations : Prop :=
  ∀ (a : Alg) (outlen : Nat) (s : State), s.phase = .ready → s.alg = some a →
    s.count.toNat < 2 ^ 61 →
    ∃ p, exec .padf { s with outlen := outlen } = .next p
      ∧ (p.padReport = .done →
          ∃ q r, exec (engineInstr a) { p with src := .buf } = .next q ∧ exec .ser q = .next r
            ∧ exec (.finish outlen) s = .next { r with
                fill := Config.freeFill s.freeCtr, phase := .done, res := .ok,
                freeCtr := s.freeCtr + 1, padReport := .noValue, src := .buf, outlen := 0 })
      ∧ (p.padReport = .secondBlockNeeded →
          ∃ q r u v, exec (engineInstr a) { p with src := .buf } = .next q
            ∧ exec .padl { q with buf := Memory.zeros } = .next r
            ∧ exec (engineInstr a) r = .next u ∧ exec .ser u = .next v
            ∧ exec (.finish outlen) s = .next { v with
                fill := Config.freeFill s.freeCtr, phase := .done, res := .ok,
                freeCtr := s.freeCtr + 1, padReport := .noValue, src := .buf, outlen := 0 })
      ∧ (p.padReport = .done ∨ p.padReport = .secondBlockNeeded)

/-! ## Padding -/

/-- `PADF`: the bytes of `BUF` below the offset are kept, the marker stands at the offset, zeros follow,
and where it fits the length field ends the block; an overflow reports `Fail` and writes nothing; the
report and `BUF` are all that changes (42_padding.md R152, R153, R155, R156, R157, with the fit test of
the default `LEN_RESERVE`, log entry 3). -/
def Obligations.PadfWritesMarkerAndLength : Prop :=
  ∀ (a : Alg) (size off : Nat) (s : State), s.alg = some a → s.buf.wf → size = blockSize a →
    off = s.count.toNat % size →
    ∃ t, exec .padf s = .next t ∧ t = { s with buf := t.buf, padReport := t.padReport }
      ∧ (2 ^ 61 ≤ s.count.toNat → t.buf = s.buf ∧ t.padReport = .fail .bitlenOverflow)
      ∧ (s.count.toNat < 2 ^ 61 → off ≤ size - 9 → t.padReport = .done
          ∧ ∀ i, t.buf.read i =
              if i < off ∨ size ≤ i then s.buf.read i
              else if i = off then 0x80#8
              else if i < size - 8 then 0#8
              else BitVec.ofNat 8 (s.count.toNat * 8 / 2 ^ (8 * (size - 1 - i))))
      ∧ (s.count.toNat < 2 ^ 61 → size - 9 < off → t.padReport = .secondBlockNeeded
          ∧ ∀ i, t.buf.read i =
              if i < off ∨ size ≤ i then s.buf.read i
              else if i = off then 0x80#8
              else 0#8)

/-- `PADF` at every value of `LEN_RESERVE` that the spec allows: the length field fits exactly where that many bytes
remain after the marker; the bytes of `BUF` and the report in both cases (42_padding.md R153 to R157). -/
def Obligations.PadfForEveryLenReserve : Prop :=
  ∀ (lr : Config.LenReserve) (a : Alg) (size off : Nat) (s : State), lr.Legal → s.alg = some a → s.buf.wf →
    size = blockSize a → off = s.count.toNat % size → s.count.toNat < 2 ^ 61 →
    ∃ t, execAt lr .padf s = .next t ∧ t = { s with buf := t.buf, padReport := t.padReport }
      ∧ (lr size ≤ size - (off + 1) → t.padReport = .done
          ∧ ∀ i, t.buf.read i =
              if i < off ∨ size ≤ i then s.buf.read i
              else if i = off then 0x80#8
              else if i < size - 8 then 0#8
              else BitVec.ofNat 8 (s.count.toNat * 8 / 2 ^ (8 * (size - 1 - i))))
      ∧ (size - (off + 1) < lr size → t.padReport = .secondBlockNeeded
          ∧ ∀ i, t.buf.read i =
              if i < off ∨ size ≤ i then s.buf.read i
              else if i = off then 0x80#8
              else 0#8)

/-- `PADL`: the last 8 bytes of the block are the length field, big-endian, every other byte of `BUF` is
unchanged, and the report is `Done`. From `count = 2^61` on, which no `FINISH` reaches, nothing is said of those
8 bytes, which are free (log entry 26; 42_padding.md R160, R162). -/
def Obligations.PadlWritesLengthField : Prop :=
  ∀ (a : Alg) (size : Nat) (s : State), s.alg = some a → s.buf.wf → size = blockSize a →
    ∃ t, exec .padl s = .next t ∧ t = { s with buf := t.buf, padReport := .done }
      ∧ (∀ i, i < size - 8 ∨ size ≤ i → t.buf.read i = s.buf.read i)
      ∧ (s.count.toNat < 2 ^ 61 → ∀ i, size - 8 ≤ i → i < size →
          t.buf.read i = BitVec.ofNat 8 (s.count.toNat * 8 / 2 ^ (8 * (size - 1 - i))))

/-- The padding engine over any block size: it fails on a size that is neither 64 nor 128, before it looks
at `count`, and then writes nothing (42_padding.md R151, 60_exceptions.md R242, R247). -/
def Obligations.PaddingRejectsOtherBlockSizes : Prop :=
  ∀ (lr : Config.LenReserve) (size : Nat) (buf : Memory) (count : Nat),
    ((padF lr size buf count).report = .fail .badBlockSize ↔ size ≠ 64 ∧ size ≠ 128)
      ∧ ((padL size buf count).report = .fail .badBlockSize ↔ size ≠ 64 ∧ size ≠ 128)
      ∧ (size ≠ 64 ∧ size ≠ 128 → (padF lr size buf count).buf = buf ∧ (padL size buf count).buf = buf)

/-- The padded message begins with the message, its length is a multiple of `B`, and it has one block more
than the whole message blocks where `LEN_RESERVE` bytes remain after the marker, else two (42_padding.md R163,
41_streaming_engine.md R144). -/
def Obligations.PaddedMessageFillsBlocks : Prop :=
  ∀ (lr : Config.LenReserve) (a : Alg) (msg : List Byte), lr.Legal →
    (paddedMessage lr (blockSize a) msg).take msg.length = msg
      ∧ (paddedMessage lr (blockSize a) msg).length % blockSize a = 0
      ∧ (blocksOf (blockSize a) (paddedMessage lr (blockSize a) msg)).length
          = msg.length / blockSize a
            + (if blockSize a - (msg.length % blockSize a + 1) ≥ lr (blockSize a) then 1 else 2)

/-- What the parameter changes: the two legal values give the same padding for every 64-byte block, and
for the 128-byte block they differ exactly where `count mod 128` lies in 112 to 119 (42_padding.md R159). From
`2^61` bytes on the length field is a free value, equal for equal lengths by the model's choice (log entry 26). -/
def Obligations.LenReserveMattersOnlyFrom112To119 : Prop :=
  ∀ (lr lr' : Config.LenReserve) (length : Nat), lr.Legal → lr'.Legal → lr 128 = 8 → lr' 128 = 16 →
    paddingOf lr 64 length = paddingOf lr' 64 length
      ∧ (paddingOf lr 128 length = paddingOf lr' 128 length
          ↔ ¬ (112 ≤ length % 128 ∧ length % 128 ≤ 119))

/-! ## Word arithmetic -/

/-- Wrapping addition, of two and of several words, and the two rotations, by their bits
(40_word_arithmetic.md R111, R112, R113). -/
def Obligations.AdditionWrapsAndRotationsTurn : Prop :=
  ∀ (w : Nat) (x y : BitVec w),
    (addW x y).toNat = (x.toNat + y.toNat) % 2 ^ w
      ∧ (∀ xs : List (BitVec w), (sumW xs).toNat = (xs.map BitVec.toNat).sum % 2 ^ w)
      ∧ (∀ r, 0 < r → r < w →
          rotl x r = (x <<< r) ||| (x >>> (w - r))
            ∧ rotr x r = (x >>> r) ||| (x <<< (w - r))
            ∧ (∀ i < w, (rotl x r).getLsbD i = x.getLsbD ((i + w - r) % w))
            ∧ (∀ i < w, (rotr x r).getLsbD i = x.getLsbD ((i + r) % w))
            ∧ rotl x r = rotr x (w - r) ∧ rotr (rotl x r) r = x)

/-- Big-endian load and store: the first byte is the most significant, and each undoes the other
(40_word_arithmetic.md R117, R118). -/
def Obligations.BigEndianLoadAndStoreInvert : Prop :=
  ∀ (k : Nat) (v : BitVec (8 * k)) (bs : List Byte),
    (beStore k v).length = k
      ∧ (∀ i < k, (beStore k v).getD i 0#8 = BitVec.ofNat 8 (v.toNat / 2 ^ (8 * (k - 1 - i))))
      ∧ (bs.length = k → (beLoad (8 * k) bs).toNat
          = ((List.range k).map fun i => (bs.getD i 0#8).toNat * 2 ^ (8 * (k - 1 - i))).sum)
      ∧ beLoad (8 * k) (beStore k v) = v
      ∧ (bs.length = k → beStore k (beLoad (8 * k) bs) = bs)

/-! ## SHA-1 -/

/-- `SCHED1` writes the 80 words of the schedule: 16 words of the block, big-endian, then the recurrence; nothing
else changes (43_sha1_compression.md R171, R172). That it runs in every state, whatever `alg` selects, is the
model's choice (log entry 14), and so is that a byte of `BUF` that does not exist reads as 0 (log entry 27). -/
def Obligations.Sched1FollowsRecurrence : Prop :=
  ∀ s : State, ∃ W : List Word32,
    exec .sched1 s = .next { s with sched := .w32 W } ∧ W.length = 80
      ∧ (∀ t < 16, W.getD t 0#32 = beLoad 32 (((s.block 64).drop (4 * t)).take 4))
      ∧ (∀ t, 16 ≤ t → t < 80 → W.getD t 0#32
          = rotl (W.getD (t - 3) 0#32 ^^^ W.getD (t - 8) 0#32 ^^^ W.getD (t - 14) 0#32
              ^^^ W.getD (t - 16) 0#32) 1)

/-- The round function, the round constants, one round and the fold back of SHA-1
(43_sha1_compression.md R174 to R177; the spec takes the formulas from general knowledge, G6, G8, G9, G17). -/
def Obligations.Sha1RoundEquations : Prop :=
  ∀ (t : Nat) (wt b c d : Word32) (v h : Words5),
    (t < 20 → f1 t b c d = (b &&& c) ||| (~~~b &&& d) ∧ k1At t = 0x5a827999#32)
      ∧ (20 ≤ t → t < 40 → f1 t b c d = b ^^^ c ^^^ d ∧ k1At t = 0x6ed9eba1#32)
      ∧ (40 ≤ t → t < 60 →
          f1 t b c d = (b &&& c) ||| (b &&& d) ||| (c &&& d) ∧ k1At t = 0x8f1bbcdc#32)
      ∧ (60 ≤ t → t < 80 → f1 t b c d = b ^^^ c ^^^ d ∧ k1At t = 0xca62c1d6#32)
      ∧ round1 t wt v
          = ⟨rotl v.a 5 + f1 t v.b v.c v.d + v.e + k1At t + wt, v.a, rotl v.b 30, v.c, v.d⟩
      ∧ fold1 h v = ⟨h.a + v.a, h.b + v.b, h.c + v.c, h.d + v.d, h.e + v.e⟩

/-- `CMP1` where SHA-1 is selected: 80 rounds on the schedule of the block, started from `H`, folded back
into `H`; nothing else but the transients changes (43_sha1_compression.md R170, R173, R176 to R178). -/
def Obligations.Cmp1CompressesOneBlock : Prop :=
  ∀ (s : State) (h : Words5), s.algH = .sha1 h →
    ∃ (vs : Nat → Words5), vs 0 = h
      ∧ (∀ t < 80, vs (t + 1) = round1 t ((sched1 (s.block 64)).getD t 0#32) (vs t))
      ∧ exec .cmp1 s = .next { s with
          algH := .sha1 (fold1 h (vs 80)), sched := .w32 (sched1 (s.block 64)),
          work := .vars5 (vs 80) }

/-! ## SHA-2 -/

/-- `SCHED2.32` and `SCHED2.64` write the 64 or 80 words of the schedule: 16 words of the block, big-endian, then
the recurrence; nothing else changes (44_sha2_compression.md R191, R192). That they run in every state, whatever
`alg` selects, is the model's choice (log entry 14), and so is that a byte of `BUF` that does not exist reads as 0
(log entry 27). -/
def Obligations.Sched2FollowsRecurrence : Prop :=
  ∀ s : State,
    (∃ W : List Word32, exec .sched2w32 s = .next { s with sched := .w32 W } ∧ W.length = 64
      ∧ (∀ t < 16, W.getD t 0#32 = beLoad 32 (((s.block 64).drop (4 * t)).take 4))
      ∧ (∀ t, 16 ≤ t → t < 64 → W.getD t 0#32
          = smallSigma width32.smallSigma1 (W.getD (t - 2) 0#32) + W.getD (t - 7) 0#32
            + smallSigma width32.smallSigma0 (W.getD (t - 15) 0#32) + W.getD (t - 16) 0#32))
    ∧ (∃ W : List Word64, exec .sched2w64 s = .next { s with sched := .w64 W } ∧ W.length = 80
      ∧ (∀ t < 16, W.getD t 0#64 = beLoad 64 (((s.block 128).drop (8 * t)).take 8))
      ∧ (∀ t, 16 ≤ t → t < 80 → W.getD t 0#64
          = smallSigma width64.smallSigma1 (W.getD (t - 2) 0#64) + W.getD (t - 7) 0#64
            + smallSigma width64.smallSigma0 (W.getD (t - 15) 0#64) + W.getD (t - 16) 0#64))

/-- The sigma functions of both widths, with their rotations and shifts, and the shift
(44_sha2_compression.md R193, R194, 40_word_arithmetic.md R114; the amounts are from general knowledge, G7,
G10). -/
def Obligations.Sha2SigmaFunctions : Prop :=
  (∀ x : Word32,
      smallSigma width32.smallSigma0 x = rotr x 7 ^^^ rotr x 18 ^^^ x >>> 3
        ∧ smallSigma width32.smallSigma1 x = rotr x 17 ^^^ rotr x 19 ^^^ x >>> 10
        ∧ bigSigma width32.bigSigma0 x = rotr x 2 ^^^ rotr x 13 ^^^ rotr x 22
        ∧ bigSigma width32.bigSigma1 x = rotr x 6 ^^^ rotr x 11 ^^^ rotr x 25
        ∧ ∀ r, (shr x r).toNat = x.toNat / 2 ^ r)
    ∧ (∀ x : Word64,
      smallSigma width64.smallSigma0 x = rotr x 1 ^^^ rotr x 8 ^^^ x >>> 7
        ∧ smallSigma width64.smallSigma1 x = rotr x 19 ^^^ rotr x 61 ^^^ x >>> 6
        ∧ bigSigma width64.bigSigma0 x = rotr x 28 ^^^ rotr x 34 ^^^ rotr x 39
        ∧ bigSigma width64.bigSigma1 x = rotr x 14 ^^^ rotr x 18 ^^^ rotr x 41
        ∧ ∀ r, (shr x r).toNat = x.toNat / 2 ^ r)

/-- One round of SHA-2 in either width, with its two temporaries, and the fold back
(44_sha2_compression.md R195, R199, R200; the formulas are from general knowledge, G11, G14, G17). -/
def Obligations.Sha2RoundEquations : Prop :=
  ∀ (w : Nat) (p : Sha2Width w) (t : Nat) (wt : BitVec w) (v h : Words8 w) (t1 t2 : BitVec w),
    t1 = v.h + bigSigma p.bigSigma1 v.e + ((v.e &&& v.f) ^^^ (~~~v.e &&& v.g))
        + p.constants.getD t 0#w + wt →
    t2 = bigSigma p.bigSigma0 v.a + ((v.a &&& v.b) ^^^ (v.a &&& v.c) ^^^ (v.b &&& v.c)) →
    round2 p t wt v = ⟨t1 + t2, v.a, v.b, v.c, v.d + t1, v.e, v.f, v.g⟩
      ∧ fold2 h v = ⟨h.a + v.a, h.b + v.b, h.c + v.c, h.d + v.d, h.e + v.e, h.f + v.f, h.g + v.g,
          h.h + v.h⟩

/-- `CMP2.32` where SHA-224 or SHA-256 is selected: 64 rounds on the schedule of the block, started from
`H`, folded back into `H`; the same function for both variants; nothing else but the transients changes
(44_sha2_compression.md R190, R198, R201, R202). -/
def Obligations.Cmp2Width32CompressesOneBlock : Prop :=
  ∀ (s : State) (h : Words8 32), (s.algH = .sha224 h ∨ s.algH = .sha256 h) →
    ∃ (vs : Nat → Words8 32), vs 0 = h
      ∧ (∀ t < 64, vs (t + 1) = round2 width32 t ((sched2 width32 (s.block 64)).getD t 0#32) (vs t))
      ∧ exec .cmp2w32 s = .next { s with
          algH := if s.alg = some .sha224 then .sha224 (fold2 h (vs 64)) else .sha256 (fold2 h (vs 64)),
          sched := .w32 (sched2 width32 (s.block 64)), work := .vars8w32 (vs 64) }

/-- `CMP2.64` where SHA-384 or SHA-512 is selected: 80 rounds on the schedule of the block, started from
`H`, folded back into `H`; the same function for both variants; nothing else but the transients changes
(44_sha2_compression.md R190, R198, R201, R202). -/
def Obligations.Cmp2Width64CompressesOneBlock : Prop :=
  ∀ (s : State) (h : Words8 64), (s.algH = .sha384 h ∨ s.algH = .sha512 h) →
    ∃ (vs : Nat → Words8 64), vs 0 = h
      ∧ (∀ t < 80, vs (t + 1) = round2 width64 t ((sched2 width64 (s.block 128)).getD t 0#64) (vs t))
      ∧ exec .cmp2w64 s = .next { s with
          algH := if s.alg = some .sha384 then .sha384 (fold2 h (vs 80)) else .sha512 (fold2 h (vs 80)),
          sched := .w64 (sched2 width64 (s.block 128)), work := .vars8w64 (vs 80) }

/-! ## The serializer -/

/-- `SER` where a variant is selected: the first `min(outlen, DS)` bytes of the digest go to `OUT`, every
other byte of `OUT` and all of the engine is unchanged (45_digest_serializer.md R220, R224). -/
def Obligations.SerCopiesDigestPrefix : Prop :=
  ∀ (a : Alg) (s : State), s.alg = some a → s.out.wf →
    ∃ t, exec .ser s = .next t ∧ t = { s with out := t.out }
      ∧ ∀ i, t.out.read i =
          if i < min s.outlen (digestSize a) then s.algH.digest.getD i 0#8 else s.out.read i

/-- The digest bytes: word `i` of `H` big-endian, word 0 first; `DS` bytes in all
(45_digest_serializer.md R221, R222, R223). -/
def Obligations.DigestIsBigEndianWords : Prop :=
  (∀ h : Words5, (AlgH.sha1 h).digest.length = 20
      ∧ ∀ i j, i < 5 → j < 4 → (AlgH.sha1 h).digest.getD (4 * i + j) 0#8
          = BitVec.ofNat 8 ((h.toList.getD i 0#32).toNat / 2 ^ (8 * (3 - j))))
    ∧ (∀ h : Words8 32, (AlgH.sha224 h).digest.length = 28 ∧ (AlgH.sha256 h).digest.length = 32
      ∧ ∀ i j, i < 8 → j < 4 → (AlgH.sha256 h).digest.getD (4 * i + j) 0#8
          = BitVec.ofNat 8 ((h.toList.getD i 0#32).toNat / 2 ^ (8 * (3 - j)))
          ∧ (i < 7 → (AlgH.sha224 h).digest.getD (4 * i + j) 0#8
              = BitVec.ofNat 8 ((h.toList.getD i 0#32).toNat / 2 ^ (8 * (3 - j)))))
    ∧ (∀ h : Words8 64, (AlgH.sha384 h).digest.length = 48 ∧ (AlgH.sha512 h).digest.length = 64
      ∧ ∀ i j, i < 8 → j < 8 → (AlgH.sha512 h).digest.getD (8 * i + j) 0#8
          = BitVec.ofNat 8 ((h.toList.getD i 0#64).toNat / 2 ^ (8 * (7 - j)))
          ∧ (i < 6 → (AlgH.sha384 h).digest.getD (8 * i + j) 0#8
              = BitVec.ofNat 8 ((h.toList.getD i 0#64).toNat / 2 ^ (8 * (7 - j)))))

/-! ## Whole-machine rules -/

/-- Every step keeps the invariant of a run that the host drives: canonical byte arrays, `BUF` inside its
`B` bytes and zero from `fill` on, `fill = count mod B < B` in READY, a variant selected outside UNSEL, and
`RES` in step with `phase`, and no transient left of a command (10_state.md R24 to R29, R32; the transients'
values at rest are the model's choice, log entry 23). So does every step at each value of `LEN_RESERVE` that the
spec allows. -/
def Obligations.StepKeepsInvariant : Prop :=
  ∀ s t : State, Inv s →
    (step s = .next t → Inv t)
      ∧ ∀ lr : Config.LenReserve, lr.Legal → stepAt lr s = .next t → Inv t

/-- The invariant holds right after reset (10_state.md R39; the values the spec leaves unspecified are
those of log entry 4). -/
def Obligations.ResetMeetsInvariant : Prop := Inv State.reset

/-- Every step, one of the sequencer too, keeps the byte arrays canonical, a form that is the model's own
(log entry 8; 20_memory.md R50). -/
def Obligations.StepKeepsMemoryCanonical : Prop :=
  ∀ s t : State, MemoryCanonical s → step s = .next t → MemoryCanonical t

/-- A command that completes leaves no transient: no report of the padding engine, no selected block, no operand
(10_state.md R32, R41; their values at rest are the model's choice, log entry 23). -/
def Obligations.NoTransientSurvivesACommand : Prop :=
  ∀ (lr : Config.LenReserve) (i : Instr) (s t : State), i.isHost = true →
    (exec i s = .next t ∨ execAt lr i s = .next t) →
    t.padReport = .noValue ∧ t.src = .buf ∧ t.outlen = 0

/-- `alg` is written by `SELECT` alone, and `SELECT` writes the variant it names (10_state.md R21). -/
def Obligations.AlgIsWrittenBySelectAlone : Prop :=
  ∀ (i : Instr) (s t : State), exec i s = .next t →
    (∀ a, i = selectInstr a → t.alg = some a) ∧ ((∀ a, i ≠ selectInstr a) → t.alg = s.alg)

/-- `OUT` is written by `FINISH` and `SER` alone, and by them at offsets below `min(outlen, DS)` alone; no
instruction writes `IN` or what waits at the ports (20_memory.md R58). -/
def Obligations.OutputIsWrittenByFinishAlone : Prop :=
  ∀ (i : Instr) (s t : State), exec i s = .next t → s.out.wf →
    t.inp = s.inp ∧ t.pending = s.pending
      ∧ ((∀ n, i ≠ .finish n) → i ≠ .ser → t.out = s.out)
      ∧ (∀ n a, (i = .finish n ∨ i = .ser ∧ n = s.outlen) → s.alg = some a →
          ∀ k, min n (digestSize a) ≤ k → t.out.read k = s.out.read k)

/-- The micro-operations are inside a command: none writes `phase`, `RES`, `count`, `fill` or `alg`, and
none draws a free value (42_padding.md R150, 43_sha1_compression.md R170, 44_sha2_compression.md R190,
45_digest_serializer.md R220; log entry 24). -/
def Obligations.MicroOperationsKeepTheLifecycle : Prop :=
  ∀ (i : Instr) (s t : State), i.isHost = false → exec i s = .next t →
    t.phase = s.phase ∧ t.res = s.res ∧ t.count = s.count ∧ t.fill = s.fill ∧ t.alg = s.alg
      ∧ t.freeCtr = s.freeCtr

/-- A hardware reset between two commands leaves `phase` UNSEL, keeps what waits at the ports, and then
`INIT`, `UPDATE` and `FINISH` are refused and `SELECT` is not; nothing is said of the values that are free
(log entry 7; 70_reset_and_hazards.md R270, 10_state.md R29). -/
def Obligations.ResetLeavesOnlySelectLegal : Prop :=
  ∀ (s : State) (rest : List Event), s.pending = .reset :: rest →
    ∃ t, step s = .next t ∧ t.phase = .unsel ∧ t.pending = rest ∧ t.out = s.out
      ∧ exec .init t = .refused .initBeforeSelect
      ∧ (∀ n, exec (.update n) t = .refused .useBeforeInit ∧ exec (.finish n) t = .refused .useBeforeInit)
      ∧ ∀ a, ∃ u, exec (selectInstr a) t = .next u ∧ u.phase = .ready ∧ u.alg = some a

/-- Distinct instances are independent: after any interleaving each instance is where it would be after as
many steps alone (20_memory.md R67, 60_exceptions.md R254). -/
def Obligations.InstancesAreIndependent : Prop :=
  ∀ (lr : Config.LenReserve) (sys : System) (schedule : List Nat) (k : Nat),
    (sys.run lr schedule)[k]? = sys[k]?.map (runAlone lr (schedule.count k))

/-- The encodings of the result and of the stored `alg` (30_encoding.md R84, R90). -/
def Obligations.ResultAndVariantCodes : Prop :=
  Res.code .ok = 0#1 ∧ Res.code .err = 1#1
    ∧ (∀ r, Res.ofCode (Res.code r) = r)
    ∧ (algCode .sha1, algCode .sha224, algCode .sha256, algCode .sha384, algCode .sha512)
        = (0#3, 1#3, 2#3, 3#3, 4#3)
    ∧ (∀ a, algOfCode (algCode a) = some a)
    ∧ (∀ c : BitVec 3, 5 ≤ c.toNat → algOfCode c = none)

/-- The expansions of the pseudo-commands (30_encoding.md R89). -/
def Obligations.PseudoCommandExpansions : Prop :=
  ∀ (a : Alg) (bytes : List Byte),
    (PseudoCommand.new a).expand = [(selectInstr a, [])]
      ∧ PseudoCommand.reset.expand = [(.init, [])]
      ∧ (PseudoCommand.hash a bytes).expand
          = [(selectInstr a, []), (.update bytes.length, bytes), (.finish (digestSize a), [])]
      ∧ PseudoCommand.updateEmpty.expand = [(.update 0, [])]
end

