-- ==== Sys2Proof/Laws/Decode.lean ====
section
/-! SUPPORT. The fields of a command word: each is read back from the word they make, and they make the
word they are read from. -/

namespace Sys2Proof

@[simp] theorem opField_commandWord (op arg : BitVec 4) (n : BitVec 64) :
    opField (commandWord op arg n) = op := by
  apply BitVec.eq_of_getLsbD_eq
  intro i hi
  simp only [opField, commandWord, BitVec.getLsbD_extractLsb', BitVec.getLsbD_append]
  simp [hi, show ¬ 68 + i < 64 by omega, show ¬ 68 + i - 64 < 4 by omega, show 68 + i - 64 - 4 = i by omega]

@[simp] theorem argField_commandWord (op arg : BitVec 4) (n : BitVec 64) :
    argField (commandWord op arg n) = arg := by
  apply BitVec.eq_of_getLsbD_eq
  intro i hi
  simp only [argField, commandWord, BitVec.getLsbD_extractLsb', BitVec.getLsbD_append]
  simp [hi]

@[simp] theorem nField_commandWord (op arg : BitVec 4) (n : BitVec 64) :
    nField (commandWord op arg n) = n := by
  apply BitVec.eq_of_getLsbD_eq
  intro i hi
  simp only [nField, commandWord, BitVec.getLsbD_extractLsb', BitVec.getLsbD_append]
  simp [hi]

/-- A command word is made of its three fields. -/
theorem commandWord_fields (cw : CommandWord) :
    commandWord (opField cw) (argField cw) (nField cw) = cw := by
  apply BitVec.eq_of_getLsbD_eq
  intro i hi
  simp only [commandWord, opField, argField, nField, BitVec.getLsbD_append, BitVec.getLsbD_extractLsb']
  by_cases h : i < 64
  · simp [h]
  · by_cases h' : i - 64 < 4
    · simp [h, h', show 64 + (i - 64) = i by omega]
    · simp [h, h', show i - 64 - 4 < 4 by omega, show 68 + (i - 64 - 4) = i by omega]

theorem opField_toNat (cw : CommandWord) : (opField cw).toNat = cw.toNat / 2 ^ 68 := by
  have h := cw.isLt
  rw [opField, BitVec.extractLsb'_toNat, Nat.shiftRight_eq_div_pow, Nat.mod_eq_of_lt]
  exact Nat.div_lt_of_lt_mul (by norm_num at h ⊢; omega)

theorem argField_toNat (cw : CommandWord) : (argField cw).toNat = cw.toNat / 2 ^ 64 % 16 := by
  rw [argField, BitVec.extractLsb'_toNat, Nat.shiftRight_eq_div_pow]

theorem nField_toNat (cw : CommandWord) : (nField cw).toNat = cw.toNat % 2 ^ 64 := by
  rw [nField, BitVec.extractLsb'_toNat, Nat.shiftRight_zero]

/-- The number of an encoded word, taken as a word of the opcode table, is that word. -/
theorem tableWord_toNat (cw : CommandWord) : tableWord 72 cw.toNat = some cw := by
  have h := cw.isLt
  simp only [tableWord, Nat.mod_eq_of_lt h, if_pos h, BitVec.ofNat_toNat]
  simp

end Sys2Proof
end

