-- ==== Sys2Proof/Laws/State.lean ====
section
/-! SUPPORT. What each named update of the state does to each field: one lemma per field and update,
each true by definition. -/

namespace Sys2Proof.Machine

/-! The transients dropped. -/

@[simp] theorem dropTransients_algH (s : State) : (s.dropTransients ).algH = s.algH := rfl
@[simp] theorem dropTransients_phase (s : State) : (s.dropTransients ).phase = s.phase := rfl
@[simp] theorem dropTransients_count (s : State) : (s.dropTransients ).count = s.count := rfl
@[simp] theorem dropTransients_fill (s : State) : (s.dropTransients ).fill = s.fill := rfl
@[simp] theorem dropTransients_buf (s : State) : (s.dropTransients ).buf = s.buf := rfl
@[simp] theorem dropTransients_res (s : State) : (s.dropTransients ).res = s.res := rfl
@[simp] theorem dropTransients_sched (s : State) : (s.dropTransients ).sched = s.sched := rfl
@[simp] theorem dropTransients_work (s : State) : (s.dropTransients ).work = s.work := rfl
@[simp] theorem dropTransients_padReport (s : State) : (s.dropTransients ).padReport = .noValue := rfl
@[simp] theorem dropTransients_src (s : State) : (s.dropTransients ).src = .buf := rfl
@[simp] theorem dropTransients_outlen (s : State) : (s.dropTransients ).outlen = 0 := rfl
@[simp] theorem dropTransients_inp (s : State) : (s.dropTransients ).inp = s.inp := rfl
@[simp] theorem dropTransients_out (s : State) : (s.dropTransients ).out = s.out := rfl
@[simp] theorem dropTransients_pending (s : State) : (s.dropTransients ).pending = s.pending := rfl
@[simp] theorem dropTransients_freeCtr (s : State) : (s.dropTransients ).freeCtr = s.freeCtr := rfl

/-! The end of a command. -/

@[simp] theorem answer_algH (r : Res) (s : State) : (s.answer r).algH = s.algH := rfl
@[simp] theorem answer_phase (r : Res) (s : State) : (s.answer r).phase = s.phase := rfl
@[simp] theorem answer_count (r : Res) (s : State) : (s.answer r).count = s.count := rfl
@[simp] theorem answer_fill (r : Res) (s : State) : (s.answer r).fill = s.fill := rfl
@[simp] theorem answer_buf (r : Res) (s : State) : (s.answer r).buf = s.buf := rfl
@[simp] theorem answer_res (r : Res) (s : State) : (s.answer r).res = r := rfl
@[simp] theorem answer_sched (r : Res) (s : State) : (s.answer r).sched = s.sched := rfl
@[simp] theorem answer_work (r : Res) (s : State) : (s.answer r).work = s.work := rfl
@[simp] theorem answer_padReport (r : Res) (s : State) : (s.answer r).padReport = .noValue := rfl
@[simp] theorem answer_src (r : Res) (s : State) : (s.answer r).src = .buf := rfl
@[simp] theorem answer_outlen (r : Res) (s : State) : (s.answer r).outlen = 0 := rfl
@[simp] theorem answer_inp (r : Res) (s : State) : (s.answer r).inp = s.inp := rfl
@[simp] theorem answer_out (r : Res) (s : State) : (s.answer r).out = s.out := rfl
@[simp] theorem answer_pending (r : Res) (s : State) : (s.answer r).pending = s.pending := rfl
@[simp] theorem answer_freeCtr (r : Res) (s : State) : (s.answer r).freeCtr = s.freeCtr := rfl

/-! `count` advanced. -/

@[simp] theorem advance_algH (n : Nat) (s : State) : (s.advance n).algH = s.algH := rfl
@[simp] theorem advance_phase (n : Nat) (s : State) : (s.advance n).phase = s.phase := rfl
@[simp] theorem advance_count (n : Nat) (s : State) :
    (s.advance n).count = BitVec.ofNat 64 (s.count.toNat + n) := rfl
@[simp] theorem advance_fill (n : Nat) (s : State) : (s.advance n).fill = s.fill := rfl
@[simp] theorem advance_buf (n : Nat) (s : State) : (s.advance n).buf = s.buf := rfl
@[simp] theorem advance_res (n : Nat) (s : State) : (s.advance n).res = s.res := rfl
@[simp] theorem advance_sched (n : Nat) (s : State) : (s.advance n).sched = s.sched := rfl
@[simp] theorem advance_work (n : Nat) (s : State) : (s.advance n).work = s.work := rfl
@[simp] theorem advance_padReport (n : Nat) (s : State) : (s.advance n).padReport = s.padReport := rfl
@[simp] theorem advance_src (n : Nat) (s : State) : (s.advance n).src = s.src := rfl
@[simp] theorem advance_outlen (n : Nat) (s : State) : (s.advance n).outlen = s.outlen := rfl
@[simp] theorem advance_inp (n : Nat) (s : State) : (s.advance n).inp = s.inp := rfl
@[simp] theorem advance_out (n : Nat) (s : State) : (s.advance n).out = s.out := rfl
@[simp] theorem advance_pending (n : Nat) (s : State) : (s.advance n).pending = s.pending := rfl
@[simp] theorem advance_freeCtr (n : Nat) (s : State) : (s.advance n).freeCtr = s.freeCtr := rfl

/-! The selected block. -/

@[simp] theorem select_algH (src : BlockSource) (s : State) : (s.select src).algH = s.algH := rfl
@[simp] theorem select_phase (src : BlockSource) (s : State) : (s.select src).phase = s.phase := rfl
@[simp] theorem select_count (src : BlockSource) (s : State) : (s.select src).count = s.count := rfl
@[simp] theorem select_fill (src : BlockSource) (s : State) : (s.select src).fill = s.fill := rfl
@[simp] theorem select_buf (src : BlockSource) (s : State) : (s.select src).buf = s.buf := rfl
@[simp] theorem select_res (src : BlockSource) (s : State) : (s.select src).res = s.res := rfl
@[simp] theorem select_sched (src : BlockSource) (s : State) : (s.select src).sched = s.sched := rfl
@[simp] theorem select_work (src : BlockSource) (s : State) : (s.select src).work = s.work := rfl
@[simp] theorem select_padReport (src : BlockSource) (s : State) :
    (s.select src).padReport = s.padReport := rfl
@[simp] theorem select_src (src : BlockSource) (s : State) : (s.select src).src = src := rfl
@[simp] theorem select_outlen (src : BlockSource) (s : State) : (s.select src).outlen = s.outlen := rfl
@[simp] theorem select_inp (src : BlockSource) (s : State) : (s.select src).inp = s.inp := rfl
@[simp] theorem select_out (src : BlockSource) (s : State) : (s.select src).out = s.out := rfl
@[simp] theorem select_pending (src : BlockSource) (s : State) : (s.select src).pending = s.pending := rfl
@[simp] theorem select_freeCtr (src : BlockSource) (s : State) : (s.select src).freeCtr = s.freeCtr := rfl

/-! `outlen` latched. -/

@[simp] theorem latchOutlen_algH (outlen : Nat) (s : State) : (s.latchOutlen outlen).algH = s.algH := rfl
@[simp] theorem latchOutlen_phase (outlen : Nat) (s : State) : (s.latchOutlen outlen).phase = s.phase := rfl
@[simp] theorem latchOutlen_count (outlen : Nat) (s : State) : (s.latchOutlen outlen).count = s.count := rfl
@[simp] theorem latchOutlen_fill (outlen : Nat) (s : State) : (s.latchOutlen outlen).fill = s.fill := rfl
@[simp] theorem latchOutlen_buf (outlen : Nat) (s : State) : (s.latchOutlen outlen).buf = s.buf := rfl
@[simp] theorem latchOutlen_res (outlen : Nat) (s : State) : (s.latchOutlen outlen).res = s.res := rfl
@[simp] theorem latchOutlen_sched (outlen : Nat) (s : State) : (s.latchOutlen outlen).sched = s.sched := rfl
@[simp] theorem latchOutlen_work (outlen : Nat) (s : State) : (s.latchOutlen outlen).work = s.work := rfl
@[simp] theorem latchOutlen_padReport (outlen : Nat) (s : State) :
    (s.latchOutlen outlen).padReport = s.padReport := rfl
@[simp] theorem latchOutlen_src (outlen : Nat) (s : State) : (s.latchOutlen outlen).src = s.src := rfl
@[simp] theorem latchOutlen_outlen (outlen : Nat) (s : State) :
    (s.latchOutlen outlen).outlen = outlen := rfl
@[simp] theorem latchOutlen_inp (outlen : Nat) (s : State) : (s.latchOutlen outlen).inp = s.inp := rfl
@[simp] theorem latchOutlen_out (outlen : Nat) (s : State) : (s.latchOutlen outlen).out = s.out := rfl
@[simp] theorem latchOutlen_pending (outlen : Nat) (s : State) :
    (s.latchOutlen outlen).pending = s.pending := rfl
@[simp] theorem latchOutlen_freeCtr (outlen : Nat) (s : State) :
    (s.latchOutlen outlen).freeCtr = s.freeCtr := rfl

/-! `IN` latched. -/

@[simp] theorem latchInput_algH (inp : Memory) (s : State) : (s.latchInput inp).algH = s.algH := rfl
@[simp] theorem latchInput_phase (inp : Memory) (s : State) : (s.latchInput inp).phase = s.phase := rfl
@[simp] theorem latchInput_count (inp : Memory) (s : State) : (s.latchInput inp).count = s.count := rfl
@[simp] theorem latchInput_fill (inp : Memory) (s : State) : (s.latchInput inp).fill = s.fill := rfl
@[simp] theorem latchInput_buf (inp : Memory) (s : State) : (s.latchInput inp).buf = s.buf := rfl
@[simp] theorem latchInput_res (inp : Memory) (s : State) : (s.latchInput inp).res = s.res := rfl
@[simp] theorem latchInput_sched (inp : Memory) (s : State) : (s.latchInput inp).sched = s.sched := rfl
@[simp] theorem latchInput_work (inp : Memory) (s : State) : (s.latchInput inp).work = s.work := rfl
@[simp] theorem latchInput_padReport (inp : Memory) (s : State) :
    (s.latchInput inp).padReport = s.padReport := rfl
@[simp] theorem latchInput_src (inp : Memory) (s : State) : (s.latchInput inp).src = s.src := rfl
@[simp] theorem latchInput_outlen (inp : Memory) (s : State) : (s.latchInput inp).outlen = s.outlen := rfl
@[simp] theorem latchInput_inp (inp : Memory) (s : State) : (s.latchInput inp).inp = inp := rfl
@[simp] theorem latchInput_out (inp : Memory) (s : State) : (s.latchInput inp).out = s.out := rfl
@[simp] theorem latchInput_pending (inp : Memory) (s : State) :
    (s.latchInput inp).pending = s.pending := rfl
@[simp] theorem latchInput_freeCtr (inp : Memory) (s : State) :
    (s.latchInput inp).freeCtr = s.freeCtr := rfl

/-! `OUT` set by the host. -/

@[simp] theorem presetOutput_algH (out : Memory) (s : State) : (s.presetOutput out).algH = s.algH := rfl
@[simp] theorem presetOutput_phase (out : Memory) (s : State) : (s.presetOutput out).phase = s.phase := rfl
@[simp] theorem presetOutput_count (out : Memory) (s : State) : (s.presetOutput out).count = s.count := rfl
@[simp] theorem presetOutput_fill (out : Memory) (s : State) : (s.presetOutput out).fill = s.fill := rfl
@[simp] theorem presetOutput_buf (out : Memory) (s : State) : (s.presetOutput out).buf = s.buf := rfl
@[simp] theorem presetOutput_res (out : Memory) (s : State) : (s.presetOutput out).res = s.res := rfl
@[simp] theorem presetOutput_sched (out : Memory) (s : State) : (s.presetOutput out).sched = s.sched := rfl
@[simp] theorem presetOutput_work (out : Memory) (s : State) : (s.presetOutput out).work = s.work := rfl
@[simp] theorem presetOutput_padReport (out : Memory) (s : State) :
    (s.presetOutput out).padReport = s.padReport := rfl
@[simp] theorem presetOutput_src (out : Memory) (s : State) : (s.presetOutput out).src = s.src := rfl
@[simp] theorem presetOutput_outlen (out : Memory) (s : State) :
    (s.presetOutput out).outlen = s.outlen := rfl
@[simp] theorem presetOutput_inp (out : Memory) (s : State) : (s.presetOutput out).inp = s.inp := rfl
@[simp] theorem presetOutput_out (out : Memory) (s : State) : (s.presetOutput out).out = out := rfl
@[simp] theorem presetOutput_pending (out : Memory) (s : State) :
    (s.presetOutput out).pending = s.pending := rfl
@[simp] theorem presetOutput_freeCtr (out : Memory) (s : State) :
    (s.presetOutput out).freeCtr = s.freeCtr := rfl

/-! An expanded block. -/

@[simp] theorem expanded_algH (w : Schedule) (s : State) : (s.expanded w).algH = s.algH := rfl
@[simp] theorem expanded_phase (w : Schedule) (s : State) : (s.expanded w).phase = s.phase := rfl
@[simp] theorem expanded_count (w : Schedule) (s : State) : (s.expanded w).count = s.count := rfl
@[simp] theorem expanded_fill (w : Schedule) (s : State) : (s.expanded w).fill = s.fill := rfl
@[simp] theorem expanded_buf (w : Schedule) (s : State) : (s.expanded w).buf = s.buf := rfl
@[simp] theorem expanded_res (w : Schedule) (s : State) : (s.expanded w).res = s.res := rfl
@[simp] theorem expanded_sched (w : Schedule) (s : State) : (s.expanded w).sched = w := rfl
@[simp] theorem expanded_work (w : Schedule) (s : State) : (s.expanded w).work = s.work := rfl
@[simp] theorem expanded_padReport (w : Schedule) (s : State) :
    (s.expanded w).padReport = s.padReport := rfl
@[simp] theorem expanded_src (w : Schedule) (s : State) : (s.expanded w).src = s.src := rfl
@[simp] theorem expanded_outlen (w : Schedule) (s : State) : (s.expanded w).outlen = s.outlen := rfl
@[simp] theorem expanded_inp (w : Schedule) (s : State) : (s.expanded w).inp = s.inp := rfl
@[simp] theorem expanded_out (w : Schedule) (s : State) : (s.expanded w).out = s.out := rfl
@[simp] theorem expanded_pending (w : Schedule) (s : State) : (s.expanded w).pending = s.pending := rfl
@[simp] theorem expanded_freeCtr (w : Schedule) (s : State) : (s.expanded w).freeCtr = s.freeCtr := rfl

/-! The oldest event taken. -/

@[simp] theorem waiting_algH (rest : List Event) (s : State) : (s.waiting rest).algH = s.algH := rfl
@[simp] theorem waiting_phase (rest : List Event) (s : State) : (s.waiting rest).phase = s.phase := rfl
@[simp] theorem waiting_count (rest : List Event) (s : State) : (s.waiting rest).count = s.count := rfl
@[simp] theorem waiting_fill (rest : List Event) (s : State) : (s.waiting rest).fill = s.fill := rfl
@[simp] theorem waiting_buf (rest : List Event) (s : State) : (s.waiting rest).buf = s.buf := rfl
@[simp] theorem waiting_res (rest : List Event) (s : State) : (s.waiting rest).res = s.res := rfl
@[simp] theorem waiting_sched (rest : List Event) (s : State) : (s.waiting rest).sched = s.sched := rfl
@[simp] theorem waiting_work (rest : List Event) (s : State) : (s.waiting rest).work = s.work := rfl
@[simp] theorem waiting_padReport (rest : List Event) (s : State) :
    (s.waiting rest).padReport = s.padReport := rfl
@[simp] theorem waiting_src (rest : List Event) (s : State) : (s.waiting rest).src = s.src := rfl
@[simp] theorem waiting_outlen (rest : List Event) (s : State) : (s.waiting rest).outlen = s.outlen := rfl
@[simp] theorem waiting_inp (rest : List Event) (s : State) : (s.waiting rest).inp = s.inp := rfl
@[simp] theorem waiting_out (rest : List Event) (s : State) : (s.waiting rest).out = s.out := rfl
@[simp] theorem waiting_pending (rest : List Event) (s : State) : (s.waiting rest).pending = rest := rfl
@[simp] theorem waiting_freeCtr (rest : List Event) (s : State) :
    (s.waiting rest).freeCtr = s.freeCtr := rfl

/-! An event put first. -/

@[simp] theorem placeFirst_algH (e : Event) (s : State) : (placeFirst e s).algH = s.algH := rfl
@[simp] theorem placeFirst_phase (e : Event) (s : State) : (placeFirst e s).phase = s.phase := rfl
@[simp] theorem placeFirst_count (e : Event) (s : State) : (placeFirst e s).count = s.count := rfl
@[simp] theorem placeFirst_fill (e : Event) (s : State) : (placeFirst e s).fill = s.fill := rfl
@[simp] theorem placeFirst_buf (e : Event) (s : State) : (placeFirst e s).buf = s.buf := rfl
@[simp] theorem placeFirst_res (e : Event) (s : State) : (placeFirst e s).res = s.res := rfl
@[simp] theorem placeFirst_sched (e : Event) (s : State) : (placeFirst e s).sched = s.sched := rfl
@[simp] theorem placeFirst_work (e : Event) (s : State) : (placeFirst e s).work = s.work := rfl
@[simp] theorem placeFirst_padReport (e : Event) (s : State) :
    (placeFirst e s).padReport = s.padReport := rfl
@[simp] theorem placeFirst_src (e : Event) (s : State) : (placeFirst e s).src = s.src := rfl
@[simp] theorem placeFirst_outlen (e : Event) (s : State) : (placeFirst e s).outlen = s.outlen := rfl
@[simp] theorem placeFirst_inp (e : Event) (s : State) : (placeFirst e s).inp = s.inp := rfl
@[simp] theorem placeFirst_out (e : Event) (s : State) : (placeFirst e s).out = s.out := rfl
@[simp] theorem placeFirst_pending (e : Event) (s : State) :
    (placeFirst e s).pending = e :: s.pending := rfl
@[simp] theorem placeFirst_freeCtr (e : Event) (s : State) : (placeFirst e s).freeCtr = s.freeCtr := rfl

/-! The idle engine. -/

@[simp] theorem idle_algH (s : State) : (idle s).algH = s.algH := rfl
@[simp] theorem idle_phase (s : State) : (idle s).phase = s.phase := rfl
@[simp] theorem idle_count (s : State) : (idle s).count = s.count := rfl
@[simp] theorem idle_fill (s : State) : (idle s).fill = s.fill := rfl
@[simp] theorem idle_buf (s : State) : (idle s).buf = s.buf := rfl
@[simp] theorem idle_res (s : State) : (idle s).res = s.res := rfl
@[simp] theorem idle_sched (s : State) : (idle s).sched = s.sched := rfl
@[simp] theorem idle_work (s : State) : (idle s).work = s.work := rfl
@[simp] theorem idle_padReport (s : State) : (idle s).padReport = s.padReport := rfl
@[simp] theorem idle_src (s : State) : (idle s).src = s.src := rfl
@[simp] theorem idle_outlen (s : State) : (idle s).outlen = s.outlen := rfl
@[simp] theorem idle_inp (s : State) : (idle s).inp = s.inp := rfl
@[simp] theorem idle_out (s : State) : (idle s).out = s.out := rfl
@[simp] theorem idle_pending (s : State) : (idle s).pending = s.pending := rfl
@[simp] theorem idle_freeCtr (s : State) : (idle s).freeCtr = s.freeCtr := rfl

/-! `COMPRESS` of one block. -/

@[simp] theorem compress_algH (src : BlockSource) (s : State) :
    (s.compress src).algH = s.algH.compress ((s.select src).block s.algH.bufSize) := rfl
@[simp] theorem compress_phase (src : BlockSource) (s : State) : (s.compress src).phase = s.phase := rfl
@[simp] theorem compress_count (src : BlockSource) (s : State) : (s.compress src).count = s.count := rfl
@[simp] theorem compress_fill (src : BlockSource) (s : State) : (s.compress src).fill = s.fill := rfl
@[simp] theorem compress_buf (src : BlockSource) (s : State) : (s.compress src).buf = s.buf := rfl
@[simp] theorem compress_res (src : BlockSource) (s : State) : (s.compress src).res = s.res := rfl
@[simp] theorem compress_sched (src : BlockSource) (s : State) :
    (s.compress src).sched = s.algH.scheduleOf ((s.select src).block s.algH.bufSize) := rfl
@[simp] theorem compress_work (src : BlockSource) (s : State) :
    (s.compress src).work = s.algH.workOf ((s.select src).block s.algH.bufSize) := rfl
@[simp] theorem compress_padReport (src : BlockSource) (s : State) :
    (s.compress src).padReport = s.padReport := rfl
@[simp] theorem compress_src (src : BlockSource) (s : State) : (s.compress src).src = src := rfl
@[simp] theorem compress_outlen (src : BlockSource) (s : State) : (s.compress src).outlen = s.outlen := rfl
@[simp] theorem compress_inp (src : BlockSource) (s : State) : (s.compress src).inp = s.inp := rfl
@[simp] theorem compress_out (src : BlockSource) (s : State) : (s.compress src).out = s.out := rfl
@[simp] theorem compress_pending (src : BlockSource) (s : State) :
    (s.compress src).pending = s.pending := rfl
@[simp] theorem compress_freeCtr (src : BlockSource) (s : State) :
    (s.compress src).freeCtr = s.freeCtr := rfl

/-! The equivalent of `INIT`. -/

@[simp] theorem initContext_algH (a : Alg) (s : State) : (initContext a s).algH = AlgH.initial a := rfl
@[simp] theorem initContext_phase (a : Alg) (s : State) : (initContext a s).phase = .ready := rfl
@[simp] theorem initContext_count (a : Alg) (s : State) : (initContext a s).count = 0#64 := rfl
@[simp] theorem initContext_fill (a : Alg) (s : State) : (initContext a s).fill = 0 := rfl
@[simp] theorem initContext_buf (a : Alg) (s : State) : (initContext a s).buf = Memory.zeros := rfl
@[simp] theorem initContext_res (a : Alg) (s : State) : (initContext a s).res = .ok := rfl
@[simp] theorem initContext_sched (a : Alg) (s : State) : (initContext a s).sched = s.sched := rfl
@[simp] theorem initContext_work (a : Alg) (s : State) : (initContext a s).work = s.work := rfl
@[simp] theorem initContext_padReport (a : Alg) (s : State) : (initContext a s).padReport = .noValue := rfl
@[simp] theorem initContext_src (a : Alg) (s : State) : (initContext a s).src = .buf := rfl
@[simp] theorem initContext_outlen (a : Alg) (s : State) : (initContext a s).outlen = 0 := rfl
@[simp] theorem initContext_inp (a : Alg) (s : State) : (initContext a s).inp = s.inp := rfl
@[simp] theorem initContext_out (a : Alg) (s : State) : (initContext a s).out = s.out := rfl
@[simp] theorem initContext_pending (a : Alg) (s : State) : (initContext a s).pending = s.pending := rfl
@[simp] theorem initContext_freeCtr (a : Alg) (s : State) : (initContext a s).freeCtr = s.freeCtr := rfl

/-! A free context. -/

@[simp] theorem freeContext_algH (v : Option Alg) (s : State) :
    (freeContext v s).algH = freeAlgH s.freeCtr v := rfl
@[simp] theorem freeContext_phase (v : Option Alg) (s : State) : (freeContext v s).phase = s.phase := rfl
@[simp] theorem freeContext_count (v : Option Alg) (s : State) :
    (freeContext v s).count = Config.freeCount s.freeCtr := rfl
@[simp] theorem freeContext_fill (v : Option Alg) (s : State) :
    (freeContext v s).fill = Config.freeFill s.freeCtr := rfl
@[simp] theorem freeContext_buf (v : Option Alg) (s : State) :
    (freeContext v s).buf = freeBuf s.freeCtr (freeAlgH s.freeCtr v).bufSize := rfl
@[simp] theorem freeContext_res (v : Option Alg) (s : State) : (freeContext v s).res = s.res := rfl
@[simp] theorem freeContext_sched (v : Option Alg) (s : State) : (freeContext v s).sched = s.sched := rfl
@[simp] theorem freeContext_work (v : Option Alg) (s : State) : (freeContext v s).work = s.work := rfl
@[simp] theorem freeContext_padReport (v : Option Alg) (s : State) :
    (freeContext v s).padReport = s.padReport := rfl
@[simp] theorem freeContext_src (v : Option Alg) (s : State) : (freeContext v s).src = s.src := rfl
@[simp] theorem freeContext_outlen (v : Option Alg) (s : State) : (freeContext v s).outlen = s.outlen := rfl
@[simp] theorem freeContext_inp (v : Option Alg) (s : State) : (freeContext v s).inp = s.inp := rfl
@[simp] theorem freeContext_out (v : Option Alg) (s : State) : (freeContext v s).out = s.out := rfl
@[simp] theorem freeContext_pending (v : Option Alg) (s : State) :
    (freeContext v s).pending = s.pending := rfl
@[simp] theorem freeContext_freeCtr (v : Option Alg) (s : State) :
    (freeContext v s).freeCtr = s.freeCtr + 1 := rfl

/-! The entry of the error. -/

@[simp] theorem takeFailure_algH (s : State) : (takeFailure s).algH = freeAlgH s.freeCtr s.alg := rfl
@[simp] theorem takeFailure_phase (s : State) : (takeFailure s).phase = .failed := rfl
@[simp] theorem takeFailure_count (s : State) : (takeFailure s).count = Config.freeCount s.freeCtr := rfl
@[simp] theorem takeFailure_fill (s : State) : (takeFailure s).fill = Config.freeFill s.freeCtr := rfl
@[simp] theorem takeFailure_buf (s : State) :
    (takeFailure s).buf = freeBuf s.freeCtr (freeAlgH s.freeCtr s.alg).bufSize := rfl
@[simp] theorem takeFailure_res (s : State) : (takeFailure s).res = .err := rfl
@[simp] theorem takeFailure_sched (s : State) : (takeFailure s).sched = s.sched := rfl
@[simp] theorem takeFailure_work (s : State) : (takeFailure s).work = s.work := rfl
@[simp] theorem takeFailure_padReport (s : State) : (takeFailure s).padReport = .noValue := rfl
@[simp] theorem takeFailure_src (s : State) : (takeFailure s).src = .buf := rfl
@[simp] theorem takeFailure_outlen (s : State) : (takeFailure s).outlen = 0 := rfl
@[simp] theorem takeFailure_inp (s : State) : (takeFailure s).inp = s.inp := rfl
@[simp] theorem takeFailure_out (s : State) : (takeFailure s).out = s.out := rfl
@[simp] theorem takeFailure_pending (s : State) : (takeFailure s).pending = s.pending := rfl
@[simp] theorem takeFailure_freeCtr (s : State) : (takeFailure s).freeCtr = s.freeCtr + 1 := rfl

/-! The hardware reset. -/

@[simp] theorem hardwareReset_algH (s : State) :
    (hardwareReset s).algH = freeAlgH s.freeCtr (algOfCode (Config.freeAlgCode s.freeCtr)) := rfl
@[simp] theorem hardwareReset_phase (s : State) : (hardwareReset s).phase = .unsel := rfl
@[simp] theorem hardwareReset_count (s : State) :
    (hardwareReset s).count = Config.freeCount s.freeCtr := rfl
@[simp] theorem hardwareReset_fill (s : State) : (hardwareReset s).fill = Config.freeFill s.freeCtr := rfl
@[simp] theorem hardwareReset_buf (s : State) :
    (hardwareReset s).buf
      = freeBuf s.freeCtr (freeAlgH s.freeCtr (algOfCode (Config.freeAlgCode s.freeCtr))).bufSize := rfl
@[simp] theorem hardwareReset_res (s : State) :
    (hardwareReset s).res = Res.ofCode (Config.freeRes s.freeCtr) := rfl
@[simp] theorem hardwareReset_sched (s : State) : (hardwareReset s).sched = .noValue := rfl
@[simp] theorem hardwareReset_work (s : State) : (hardwareReset s).work = .noValue := rfl
@[simp] theorem hardwareReset_padReport (s : State) : (hardwareReset s).padReport = .noValue := rfl
@[simp] theorem hardwareReset_src (s : State) : (hardwareReset s).src = .buf := rfl
@[simp] theorem hardwareReset_outlen (s : State) : (hardwareReset s).outlen = 0 := rfl
@[simp] theorem hardwareReset_inp (s : State) : (hardwareReset s).inp = s.inp := rfl
@[simp] theorem hardwareReset_out (s : State) : (hardwareReset s).out = s.out := rfl
@[simp] theorem hardwareReset_pending (s : State) : (hardwareReset s).pending = s.pending := rfl
@[simp] theorem hardwareReset_freeCtr (s : State) : (hardwareReset s).freeCtr = s.freeCtr + 1 := rfl

/-! A padding pass. -/

@[simp] theorem padded_algH (r : PadResult) (s : State) : (s.padded r).algH = s.algH := rfl
@[simp] theorem padded_phase (r : PadResult) (s : State) : (s.padded r).phase = s.phase := rfl
@[simp] theorem padded_count (r : PadResult) (s : State) : (s.padded r).count = s.count := rfl
@[simp] theorem padded_fill (r : PadResult) (s : State) : (s.padded r).fill = s.fill := rfl
@[simp] theorem padded_buf (r : PadResult) (s : State) : (s.padded r).buf = r.buf := rfl
@[simp] theorem padded_res (r : PadResult) (s : State) : (s.padded r).res = s.res := rfl
@[simp] theorem padded_sched (r : PadResult) (s : State) : (s.padded r).sched = s.sched := rfl
@[simp] theorem padded_work (r : PadResult) (s : State) : (s.padded r).work = s.work := rfl
@[simp] theorem padded_padReport (r : PadResult) (s : State) : (s.padded r).padReport = r.report := rfl
@[simp] theorem padded_src (r : PadResult) (s : State) : (s.padded r).src = s.src := rfl
@[simp] theorem padded_outlen (r : PadResult) (s : State) : (s.padded r).outlen = s.outlen := rfl
@[simp] theorem padded_inp (r : PadResult) (s : State) : (s.padded r).inp = s.inp := rfl
@[simp] theorem padded_out (r : PadResult) (s : State) : (s.padded r).out = s.out := rfl
@[simp] theorem padded_pending (r : PadResult) (s : State) : (s.padded r).pending = s.pending := rfl
@[simp] theorem padded_freeCtr (r : PadResult) (s : State) : (s.padded r).freeCtr = s.freeCtr := rfl

/-! The first padding pass. -/

@[simp] theorem runPadF_algH (lr : Config.LenReserve) (s : State) : (runPadF lr s).algH = s.algH := rfl
@[simp] theorem runPadF_phase (lr : Config.LenReserve) (s : State) : (runPadF lr s).phase = s.phase := rfl
@[simp] theorem runPadF_count (lr : Config.LenReserve) (s : State) : (runPadF lr s).count = s.count := rfl
@[simp] theorem runPadF_fill (lr : Config.LenReserve) (s : State) : (runPadF lr s).fill = s.fill := rfl
@[simp] theorem runPadF_buf (lr : Config.LenReserve) (s : State) :
    (runPadF lr s).buf = (padF lr s.algH.bufSize s.buf s.count.toNat).buf := rfl
@[simp] theorem runPadF_res (lr : Config.LenReserve) (s : State) : (runPadF lr s).res = s.res := rfl
@[simp] theorem runPadF_sched (lr : Config.LenReserve) (s : State) : (runPadF lr s).sched = s.sched := rfl
@[simp] theorem runPadF_work (lr : Config.LenReserve) (s : State) : (runPadF lr s).work = s.work := rfl
@[simp] theorem runPadF_padReport (lr : Config.LenReserve) (s : State) :
    (runPadF lr s).padReport = (padF lr s.algH.bufSize s.buf s.count.toNat).report := rfl
@[simp] theorem runPadF_src (lr : Config.LenReserve) (s : State) : (runPadF lr s).src = s.src := rfl
@[simp] theorem runPadF_outlen (lr : Config.LenReserve) (s : State) :
    (runPadF lr s).outlen = s.outlen := rfl
@[simp] theorem runPadF_inp (lr : Config.LenReserve) (s : State) : (runPadF lr s).inp = s.inp := rfl
@[simp] theorem runPadF_out (lr : Config.LenReserve) (s : State) : (runPadF lr s).out = s.out := rfl
@[simp] theorem runPadF_pending (lr : Config.LenReserve) (s : State) :
    (runPadF lr s).pending = s.pending := rfl
@[simp] theorem runPadF_freeCtr (lr : Config.LenReserve) (s : State) :
    (runPadF lr s).freeCtr = s.freeCtr := rfl

/-! The finalization pass. -/

@[simp] theorem runPadL_algH (s : State) : (runPadL s).algH = s.algH := rfl
@[simp] theorem runPadL_phase (s : State) : (runPadL s).phase = s.phase := rfl
@[simp] theorem runPadL_count (s : State) : (runPadL s).count = s.count := rfl
@[simp] theorem runPadL_fill (s : State) : (runPadL s).fill = s.fill := rfl
@[simp] theorem runPadL_buf (s : State) :
    (runPadL s).buf = (padL s.algH.bufSize s.buf s.count.toNat).buf := rfl
@[simp] theorem runPadL_res (s : State) : (runPadL s).res = s.res := rfl
@[simp] theorem runPadL_sched (s : State) : (runPadL s).sched = s.sched := rfl
@[simp] theorem runPadL_work (s : State) : (runPadL s).work = s.work := rfl
@[simp] theorem runPadL_padReport (s : State) :
    (runPadL s).padReport = (padL s.algH.bufSize s.buf s.count.toNat).report := rfl
@[simp] theorem runPadL_src (s : State) : (runPadL s).src = s.src := rfl
@[simp] theorem runPadL_outlen (s : State) : (runPadL s).outlen = s.outlen := rfl
@[simp] theorem runPadL_inp (s : State) : (runPadL s).inp = s.inp := rfl
@[simp] theorem runPadL_out (s : State) : (runPadL s).out = s.out := rfl
@[simp] theorem runPadL_pending (s : State) : (runPadL s).pending = s.pending := rfl
@[simp] theorem runPadL_freeCtr (s : State) : (runPadL s).freeCtr = s.freeCtr := rfl

/-! The serializer. -/

@[simp] theorem runSer_algH (s : State) : (runSer s).algH = s.algH := rfl
@[simp] theorem runSer_phase (s : State) : (runSer s).phase = s.phase := rfl
@[simp] theorem runSer_count (s : State) : (runSer s).count = s.count := rfl
@[simp] theorem runSer_fill (s : State) : (runSer s).fill = s.fill := rfl
@[simp] theorem runSer_buf (s : State) : (runSer s).buf = s.buf := rfl
@[simp] theorem runSer_res (s : State) : (runSer s).res = s.res := rfl
@[simp] theorem runSer_sched (s : State) : (runSer s).sched = s.sched := rfl
@[simp] theorem runSer_work (s : State) : (runSer s).work = s.work := rfl
@[simp] theorem runSer_padReport (s : State) : (runSer s).padReport = s.padReport := rfl
@[simp] theorem runSer_src (s : State) : (runSer s).src = s.src := rfl
@[simp] theorem runSer_outlen (s : State) : (runSer s).outlen = s.outlen := rfl
@[simp] theorem runSer_inp (s : State) : (runSer s).inp = s.inp := rfl
@[simp] theorem runSer_out (s : State) : (runSer s).out = s.out.writeBytes 0 (s.algH.output s.outlen) := rfl
@[simp] theorem runSer_pending (s : State) : (runSer s).pending = s.pending := rfl
@[simp] theorem runSer_freeCtr (s : State) : (runSer s).freeCtr = s.freeCtr := rfl

/-! An `UPDATE` that fills no block. -/

@[simp] theorem appendInput_algH (n : Nat) (s : State) : (appendInput n s).algH = s.algH := rfl
@[simp] theorem appendInput_phase (n : Nat) (s : State) : (appendInput n s).phase = s.phase := rfl
@[simp] theorem appendInput_count (n : Nat) (s : State) : (appendInput n s).count = s.count := rfl
@[simp] theorem appendInput_fill (n : Nat) (s : State) : (appendInput n s).fill = s.fill + n := rfl
@[simp] theorem appendInput_buf (n : Nat) (s : State) :
    (appendInput n s).buf = s.buf.writeBytes s.fill (s.input 0 n) := rfl
@[simp] theorem appendInput_res (n : Nat) (s : State) : (appendInput n s).res = s.res := rfl
@[simp] theorem appendInput_sched (n : Nat) (s : State) : (appendInput n s).sched = s.sched := rfl
@[simp] theorem appendInput_work (n : Nat) (s : State) : (appendInput n s).work = s.work := rfl
@[simp] theorem appendInput_padReport (n : Nat) (s : State) :
    (appendInput n s).padReport = s.padReport := rfl
@[simp] theorem appendInput_src (n : Nat) (s : State) : (appendInput n s).src = s.src := rfl
@[simp] theorem appendInput_outlen (n : Nat) (s : State) : (appendInput n s).outlen = s.outlen := rfl
@[simp] theorem appendInput_inp (n : Nat) (s : State) : (appendInput n s).inp = s.inp := rfl
@[simp] theorem appendInput_out (n : Nat) (s : State) : (appendInput n s).out = s.out := rfl
@[simp] theorem appendInput_pending (n : Nat) (s : State) : (appendInput n s).pending = s.pending := rfl
@[simp] theorem appendInput_freeCtr (n : Nat) (s : State) : (appendInput n s).freeCtr = s.freeCtr := rfl

/-! The buffer filled up. -/

@[simp] theorem fillBuffer_algH (take : Nat) (s : State) : (fillBuffer take s).algH = s.algH := rfl
@[simp] theorem fillBuffer_phase (take : Nat) (s : State) : (fillBuffer take s).phase = s.phase := rfl
@[simp] theorem fillBuffer_count (take : Nat) (s : State) : (fillBuffer take s).count = s.count := rfl
@[simp] theorem fillBuffer_fill (take : Nat) (s : State) : (fillBuffer take s).fill = s.fill := rfl
@[simp] theorem fillBuffer_buf (take : Nat) (s : State) :
    (fillBuffer take s).buf = s.buf.writeBytes s.fill (s.input 0 take) := rfl
@[simp] theorem fillBuffer_res (take : Nat) (s : State) : (fillBuffer take s).res = s.res := rfl
@[simp] theorem fillBuffer_sched (take : Nat) (s : State) : (fillBuffer take s).sched = s.sched := rfl
@[simp] theorem fillBuffer_work (take : Nat) (s : State) : (fillBuffer take s).work = s.work := rfl
@[simp] theorem fillBuffer_padReport (take : Nat) (s : State) :
    (fillBuffer take s).padReport = s.padReport := rfl
@[simp] theorem fillBuffer_src (take : Nat) (s : State) : (fillBuffer take s).src = s.src := rfl
@[simp] theorem fillBuffer_outlen (take : Nat) (s : State) : (fillBuffer take s).outlen = s.outlen := rfl
@[simp] theorem fillBuffer_inp (take : Nat) (s : State) : (fillBuffer take s).inp = s.inp := rfl
@[simp] theorem fillBuffer_out (take : Nat) (s : State) : (fillBuffer take s).out = s.out := rfl
@[simp] theorem fillBuffer_pending (take : Nat) (s : State) : (fillBuffer take s).pending = s.pending := rfl
@[simp] theorem fillBuffer_freeCtr (take : Nat) (s : State) : (fillBuffer take s).freeCtr = s.freeCtr := rfl

/-! The buffer emptied. -/

@[simp] theorem emptyBuffer_algH (s : State) : (emptyBuffer s).algH = s.algH := rfl
@[simp] theorem emptyBuffer_phase (s : State) : (emptyBuffer s).phase = s.phase := rfl
@[simp] theorem emptyBuffer_count (s : State) : (emptyBuffer s).count = s.count := rfl
@[simp] theorem emptyBuffer_fill (s : State) : (emptyBuffer s).fill = 0 := rfl
@[simp] theorem emptyBuffer_buf (s : State) : (emptyBuffer s).buf = Memory.zeros := rfl
@[simp] theorem emptyBuffer_res (s : State) : (emptyBuffer s).res = s.res := rfl
@[simp] theorem emptyBuffer_sched (s : State) : (emptyBuffer s).sched = s.sched := rfl
@[simp] theorem emptyBuffer_work (s : State) : (emptyBuffer s).work = s.work := rfl
@[simp] theorem emptyBuffer_padReport (s : State) : (emptyBuffer s).padReport = s.padReport := rfl
@[simp] theorem emptyBuffer_src (s : State) : (emptyBuffer s).src = s.src := rfl
@[simp] theorem emptyBuffer_outlen (s : State) : (emptyBuffer s).outlen = s.outlen := rfl
@[simp] theorem emptyBuffer_inp (s : State) : (emptyBuffer s).inp = s.inp := rfl
@[simp] theorem emptyBuffer_out (s : State) : (emptyBuffer s).out = s.out := rfl
@[simp] theorem emptyBuffer_pending (s : State) : (emptyBuffer s).pending = s.pending := rfl
@[simp] theorem emptyBuffer_freeCtr (s : State) : (emptyBuffer s).freeCtr = s.freeCtr := rfl

/-! The buffer completed, compressed and emptied. -/

@[simp] theorem completeBuffer_algH (take : Nat) (s : State) :
    (completeBuffer take s).algH = s.algH.compress ((s.buf.writeBytes s.fill (s.input 0 take)).readBytes 0 s.algH.bufSize) := rfl
@[simp] theorem completeBuffer_phase (take : Nat) (s : State) :
    (completeBuffer take s).phase = s.phase := rfl
@[simp] theorem completeBuffer_count (take : Nat) (s : State) :
    (completeBuffer take s).count = s.count := rfl
@[simp] theorem completeBuffer_fill (take : Nat) (s : State) : (completeBuffer take s).fill = 0 := rfl
@[simp] theorem completeBuffer_buf (take : Nat) (s : State) :
    (completeBuffer take s).buf = Memory.zeros := rfl
@[simp] theorem completeBuffer_res (take : Nat) (s : State) : (completeBuffer take s).res = s.res := rfl
@[simp] theorem completeBuffer_sched (take : Nat) (s : State) :
    (completeBuffer take s).sched = s.algH.scheduleOf ((s.buf.writeBytes s.fill (s.input 0 take)).readBytes 0 s.algH.bufSize) := rfl
@[simp] theorem completeBuffer_work (take : Nat) (s : State) :
    (completeBuffer take s).work = s.algH.workOf ((s.buf.writeBytes s.fill (s.input 0 take)).readBytes 0 s.algH.bufSize) := rfl
@[simp] theorem completeBuffer_padReport (take : Nat) (s : State) :
    (completeBuffer take s).padReport = s.padReport := rfl
@[simp] theorem completeBuffer_src (take : Nat) (s : State) : (completeBuffer take s).src = .buf := rfl
@[simp] theorem completeBuffer_outlen (take : Nat) (s : State) :
    (completeBuffer take s).outlen = s.outlen := rfl
@[simp] theorem completeBuffer_inp (take : Nat) (s : State) : (completeBuffer take s).inp = s.inp := rfl
@[simp] theorem completeBuffer_out (take : Nat) (s : State) : (completeBuffer take s).out = s.out := rfl
@[simp] theorem completeBuffer_pending (take : Nat) (s : State) :
    (completeBuffer take s).pending = s.pending := rfl
@[simp] theorem completeBuffer_freeCtr (take : Nat) (s : State) :
    (completeBuffer take s).freeCtr = s.freeCtr := rfl

/-! The remainder of an `UPDATE`. -/

@[simp] theorem keepRemainder_algH (pos rem : Nat) (s : State) :
    (keepRemainder pos rem s).algH = s.algH := rfl
@[simp] theorem keepRemainder_phase (pos rem : Nat) (s : State) :
    (keepRemainder pos rem s).phase = s.phase := rfl
@[simp] theorem keepRemainder_count (pos rem : Nat) (s : State) :
    (keepRemainder pos rem s).count = s.count := rfl
@[simp] theorem keepRemainder_fill (pos rem : Nat) (s : State) : (keepRemainder pos rem s).fill = rem := rfl
@[simp] theorem keepRemainder_buf (pos rem : Nat) (s : State) :
    (keepRemainder pos rem s).buf = s.buf.writeBytes 0 (s.input pos rem) := rfl
@[simp] theorem keepRemainder_res (pos rem : Nat) (s : State) : (keepRemainder pos rem s).res = s.res := rfl
@[simp] theorem keepRemainder_sched (pos rem : Nat) (s : State) :
    (keepRemainder pos rem s).sched = s.sched := rfl
@[simp] theorem keepRemainder_work (pos rem : Nat) (s : State) :
    (keepRemainder pos rem s).work = s.work := rfl
@[simp] theorem keepRemainder_padReport (pos rem : Nat) (s : State) :
    (keepRemainder pos rem s).padReport = s.padReport := rfl
@[simp] theorem keepRemainder_src (pos rem : Nat) (s : State) : (keepRemainder pos rem s).src = s.src := rfl
@[simp] theorem keepRemainder_outlen (pos rem : Nat) (s : State) :
    (keepRemainder pos rem s).outlen = s.outlen := rfl
@[simp] theorem keepRemainder_inp (pos rem : Nat) (s : State) : (keepRemainder pos rem s).inp = s.inp := rfl
@[simp] theorem keepRemainder_out (pos rem : Nat) (s : State) : (keepRemainder pos rem s).out = s.out := rfl
@[simp] theorem keepRemainder_pending (pos rem : Nat) (s : State) :
    (keepRemainder pos rem s).pending = s.pending := rfl
@[simp] theorem keepRemainder_freeCtr (pos rem : Nat) (s : State) :
    (keepRemainder pos rem s).freeCtr = s.freeCtr := rfl

/-! The buffer cleared. -/

@[simp] theorem clearBuffer_algH (s : State) : (clearBuffer s).algH = s.algH := rfl
@[simp] theorem clearBuffer_phase (s : State) : (clearBuffer s).phase = s.phase := rfl
@[simp] theorem clearBuffer_count (s : State) : (clearBuffer s).count = s.count := rfl
@[simp] theorem clearBuffer_fill (s : State) : (clearBuffer s).fill = s.fill := rfl
@[simp] theorem clearBuffer_buf (s : State) : (clearBuffer s).buf = Memory.zeros := rfl
@[simp] theorem clearBuffer_res (s : State) : (clearBuffer s).res = s.res := rfl
@[simp] theorem clearBuffer_sched (s : State) : (clearBuffer s).sched = s.sched := rfl
@[simp] theorem clearBuffer_work (s : State) : (clearBuffer s).work = s.work := rfl
@[simp] theorem clearBuffer_padReport (s : State) : (clearBuffer s).padReport = s.padReport := rfl
@[simp] theorem clearBuffer_src (s : State) : (clearBuffer s).src = s.src := rfl
@[simp] theorem clearBuffer_outlen (s : State) : (clearBuffer s).outlen = s.outlen := rfl
@[simp] theorem clearBuffer_inp (s : State) : (clearBuffer s).inp = s.inp := rfl
@[simp] theorem clearBuffer_out (s : State) : (clearBuffer s).out = s.out := rfl
@[simp] theorem clearBuffer_pending (s : State) : (clearBuffer s).pending = s.pending := rfl
@[simp] theorem clearBuffer_freeCtr (s : State) : (clearBuffer s).freeCtr = s.freeCtr := rfl

/-! `FINISH` between the two passes. -/

@[simp] theorem betweenPasses_algH (s : State) :
    (betweenPasses s).algH = s.algH.compress (s.buf.readBytes 0 s.algH.bufSize) := rfl
@[simp] theorem betweenPasses_phase (s : State) : (betweenPasses s).phase = s.phase := rfl
@[simp] theorem betweenPasses_count (s : State) : (betweenPasses s).count = s.count := rfl
@[simp] theorem betweenPasses_fill (s : State) : (betweenPasses s).fill = s.fill := rfl
@[simp] theorem betweenPasses_buf (s : State) : (betweenPasses s).buf = Memory.zeros := rfl
@[simp] theorem betweenPasses_res (s : State) : (betweenPasses s).res = s.res := rfl
@[simp] theorem betweenPasses_sched (s : State) :
    (betweenPasses s).sched = s.algH.scheduleOf (s.buf.readBytes 0 s.algH.bufSize) := rfl
@[simp] theorem betweenPasses_work (s : State) :
    (betweenPasses s).work = s.algH.workOf (s.buf.readBytes 0 s.algH.bufSize) := rfl
@[simp] theorem betweenPasses_padReport (s : State) : (betweenPasses s).padReport = s.padReport := rfl
@[simp] theorem betweenPasses_src (s : State) : (betweenPasses s).src = .buf := rfl
@[simp] theorem betweenPasses_outlen (s : State) : (betweenPasses s).outlen = s.outlen := rfl
@[simp] theorem betweenPasses_inp (s : State) : (betweenPasses s).inp = s.inp := rfl
@[simp] theorem betweenPasses_out (s : State) : (betweenPasses s).out = s.out := rfl
@[simp] theorem betweenPasses_pending (s : State) : (betweenPasses s).pending = s.pending := rfl
@[simp] theorem betweenPasses_freeCtr (s : State) : (betweenPasses s).freeCtr = s.freeCtr := rfl

/-! The context after an OK `FINISH`. -/

@[simp] theorem closeContext_algH (s : State) : (closeContext s).algH = s.algH := rfl
@[simp] theorem closeContext_phase (s : State) : (closeContext s).phase = .done := rfl
@[simp] theorem closeContext_count (s : State) : (closeContext s).count = s.count := rfl
@[simp] theorem closeContext_fill (s : State) : (closeContext s).fill = Config.freeFill s.freeCtr := rfl
@[simp] theorem closeContext_buf (s : State) : (closeContext s).buf = s.buf := rfl
@[simp] theorem closeContext_res (s : State) : (closeContext s).res = .ok := rfl
@[simp] theorem closeContext_sched (s : State) : (closeContext s).sched = s.sched := rfl
@[simp] theorem closeContext_work (s : State) : (closeContext s).work = s.work := rfl
@[simp] theorem closeContext_padReport (s : State) : (closeContext s).padReport = .noValue := rfl
@[simp] theorem closeContext_src (s : State) : (closeContext s).src = .buf := rfl
@[simp] theorem closeContext_outlen (s : State) : (closeContext s).outlen = 0 := rfl
@[simp] theorem closeContext_inp (s : State) : (closeContext s).inp = s.inp := rfl
@[simp] theorem closeContext_out (s : State) : (closeContext s).out = s.out := rfl
@[simp] theorem closeContext_pending (s : State) : (closeContext s).pending = s.pending := rfl
@[simp] theorem closeContext_freeCtr (s : State) : (closeContext s).freeCtr = s.freeCtr + 1 := rfl

/-! The end of `FINISH`. -/

@[simp] theorem finishDigest_algH (s : State) :
    (finishDigest s).algH = s.algH.compress (s.buf.readBytes 0 s.algH.bufSize) := rfl
@[simp] theorem finishDigest_phase (s : State) : (finishDigest s).phase = .done := rfl
@[simp] theorem finishDigest_count (s : State) : (finishDigest s).count = s.count := rfl
@[simp] theorem finishDigest_fill (s : State) : (finishDigest s).fill = Config.freeFill s.freeCtr := rfl
@[simp] theorem finishDigest_buf (s : State) : (finishDigest s).buf = s.buf := rfl
@[simp] theorem finishDigest_res (s : State) : (finishDigest s).res = .ok := rfl
@[simp] theorem finishDigest_sched (s : State) :
    (finishDigest s).sched = s.algH.scheduleOf (s.buf.readBytes 0 s.algH.bufSize) := rfl
@[simp] theorem finishDigest_work (s : State) :
    (finishDigest s).work = s.algH.workOf (s.buf.readBytes 0 s.algH.bufSize) := rfl
@[simp] theorem finishDigest_padReport (s : State) : (finishDigest s).padReport = .noValue := rfl
@[simp] theorem finishDigest_src (s : State) : (finishDigest s).src = .buf := rfl
@[simp] theorem finishDigest_outlen (s : State) : (finishDigest s).outlen = 0 := rfl
@[simp] theorem finishDigest_inp (s : State) : (finishDigest s).inp = s.inp := rfl
@[simp] theorem finishDigest_out (s : State) :
    (finishDigest s).out = s.out.writeBytes 0 ((s.algH.compress (s.buf.readBytes 0 s.algH.bufSize)).output s.outlen) := rfl
@[simp] theorem finishDigest_pending (s : State) : (finishDigest s).pending = s.pending := rfl
@[simp] theorem finishDigest_freeCtr (s : State) : (finishDigest s).freeCtr = s.freeCtr + 1 := rfl

/-! The selected variant. -/

@[simp] theorem algH_compress_alg (x : AlgH) (block : List Byte) : (x.compress block).alg = x.alg := by
  cases x <;> rfl

@[simp] theorem algH_compress_bufSize (x : AlgH) (block : List Byte) :
    (x.compress block).bufSize = x.bufSize := by
  cases x <;> rfl

@[simp] theorem initial_alg (a : Alg) : (AlgH.initial a).alg = some a := by cases a <;> rfl

@[simp] theorem freeAlgH_alg (draw : Nat) (v : Option Alg) : (freeAlgH draw v).alg = v := by
  rcases v with _ | a
  · rfl
  · cases a <;> rfl

theorem bufSize_of_alg {x : AlgH} {a : Alg} (h : x.alg = some a) : x.bufSize = blockSize a := by
  simp [AlgH.bufSize, h]

theorem bufSize_none {x : AlgH} (h : x.alg = none) : x.bufSize = 0 := by simp [AlgH.bufSize, h]

theorem blockSize_cases (a : Alg) : blockSize a = 64 ∨ blockSize a = 128 := by cases a <;> simp [blockSize]

theorem blockSize_pos (a : Alg) : 0 < blockSize a := by cases a <;> simp [blockSize]

end Sys2Proof.Machine
end

