-- ==== Sys2Proof/Laws/Engines.lean ====
section
/-! SUPPORT. Laws of the engines and the serializer: lengths, the schedule recurrences, and blocks in a
row. -/

namespace Sys2Proof.Machine

theorem length_blockWords (w : Nat) (block : List Byte) : (blockWords w block).length = 16 := by
  simp [blockWords]

theorem getD_blockWords (w : Nat) (block : List Byte) {t : Nat} (ht : t < 16) :
    (blockWords w block).getD t 0#w = beLoad w ((block.drop (w / 8 * t)).take (w / 8)) := by
  simp [blockWords, List.getD, ht]

theorem repeatStep_succ {α : Type} (f : α → α) (n : Nat) (x : α) :
    repeatStep f (n + 1) x = f (repeatStep f n x) := by
  induction n generalizing x with
  | zero => rfl
  | succ n ih => rw [repeatStep, ih]; rfl

/-- A list grown at its head, read from its end: what is known of the word added at each length holds of
the grown list. -/
theorem getD_reverse_repeatStep {α : Type} (next : List α → α) (start : List α) (n : Nat) (d : α)
    (t : Nat) (ht : start.length ≤ t) (htn : t < start.length + n) :
    (repeatStep (fun l => next l :: l) n start).reverse.getD t d
      = next (repeatStep (fun l => next l :: l) (t - start.length) start) := by
  have hlen : ∀ m, (repeatStep (fun l => next l :: l) m start).length = start.length + m := by
    intro m
    induction m with
    | zero => rfl
    | succ m ih => rw [repeatStep_succ]; simp [ih]; omega
  induction n with
  | zero => omega
  | succ n ih =>
    rw [repeatStep_succ, List.reverse_cons]
    by_cases h : t < start.length + n
    · rw [← ih h]
      simp only [List.getD]
      rw [List.getElem?_append_left (by simpa [hlen] using h)]
    · have ht' : t = start.length + n := by omega
      simp only [List.getD]
      rw [List.getElem?_append_right (by simp [hlen]; omega)]
      simp [hlen, ht']

/-- The words so far, the newest first, are the final list from its end. -/
theorem getD_repeatStep_eq {α : Type} (next : List α → α) (start : List α) (n m : Nat) (d : α)
    (hm : m ≤ n) (i : Nat) (hi : i < start.length + m) :
    (repeatStep (fun l => next l :: l) m start).getD i d
      = (repeatStep (fun l => next l :: l) n start).reverse.getD (start.length + m - 1 - i) d := by
  have hlen : ∀ m, (repeatStep (fun l => next l :: l) m start).length = start.length + m := by
    intro m
    induction m with
    | zero => rfl
    | succ m ih => rw [repeatStep_succ]; simp [ih]; omega
  induction n with
  | zero =>
    obtain rfl : m = 0 := by omega
    simp only [List.getD, repeatStep]
    rw [List.getElem?_reverse (by omega)]
    congr 2
    omega
  | succ n ih =>
    by_cases h : m ≤ n
    · rw [ih h, repeatStep_succ, List.reverse_cons]
      simp only [List.getD]
      rw [List.getElem?_append_left (by simp [hlen]; omega)]
    · obtain rfl : m = n + 1 := by omega
      simp only [List.getD]
      rw [List.getElem?_reverse (by rw [hlen]; omega), hlen]
      congr 2
      omega

theorem compressAll_nil (x : AlgH) : compressAll x [] = x := rfl

theorem compressAll_cons (x : AlgH) (b : List Byte) (bs : List (List Byte)) :
    compressAll x (b :: bs) = compressAll (x.compress b) bs := rfl

theorem compressAll_append (x : AlgH) (bs cs : List (List Byte)) :
    compressAll x (bs ++ cs) = compressAll (compressAll x bs) cs := by
  simp [compressAll, List.foldl_append]

@[simp] theorem compressAll_alg (x : AlgH) (bs : List (List Byte)) :
    (compressAll x bs).alg = x.alg := by
  induction bs generalizing x with
  | nil => rfl
  | cons b bs ih => rw [compressAll_cons, ih, algH_compress_alg]

/-- A whole block at the front is the first block. -/
theorem blocksOf_block_append {size : Nat} (hs : 0 < size) (b rest : List Byte)
    (hb : b.length = size) : blocksOf size (b ++ rest) = b :: blocksOf size rest := by
  have hdiv : (b.length + rest.length) / size = rest.length / size + 1 := by
    rw [hb, Nat.add_comm, Nat.add_div_right _ hs]
  simp only [blocksOf, List.length_append, hdiv, List.range_succ_eq_map, List.map_cons,
    List.map_map]
  refine congr (congrArg List.cons ?_) (List.map_congr_left fun j _ => ?_)
  · simp [← hb]
  · simp only [Function.comp]
    congr 1
    rw [Nat.succ_mul, Nat.add_comm, ← hb, ← List.drop_drop, List.drop_left]

theorem blocksOf_short {size : Nat} {bytes : List Byte} (h : bytes.length < size) :
    blocksOf size bytes = [] := by
  simp [blocksOf, Nat.div_eq_of_lt h]

/-- Whole blocks in front: the blocks of the two parts in order. -/
theorem blocksOf_append {size : Nat} (hs : 0 < size) (n : Nat) (xs rest : List Byte)
    (hx : xs.length = n * size) :
    blocksOf size (xs ++ rest) = blocksOf size xs ++ blocksOf size rest := by
  induction n generalizing xs with
  | zero =>
    obtain rfl : xs = [] := List.eq_nil_of_length_eq_zero (by simpa using hx)
    simp [blocksOf_short (size := size) (bytes := []) (by simpa using hs)]
  | succ n ih =>
    have hlen : size ≤ xs.length := by rw [hx, Nat.succ_mul]; omega
    have htake : (xs.take size).length = size := by simp [hlen]
    have hdrop : (xs.drop size).length = n * size := by simp [hx, Nat.succ_mul]
    rw [← List.take_append_drop size xs, List.append_assoc, blocksOf_block_append hs _ _ htake,
      blocksOf_block_append hs _ _ htake, ih _ hdrop, List.cons_append]

/-- A byte string is its whole blocks and its tail: the blocks of more bytes after it. -/
theorem blocksOf_append_tail {size : Nat} (hs : 0 < size) (xs rest : List Byte) :
    blocksOf size (xs ++ rest) = blocksOf size xs ++ blocksOf size (tailOf size xs ++ rest) := by
  have hle : xs.length / size * size ≤ xs.length := Nat.div_mul_le_self _ _
  have hlen : (xs.take (xs.length / size * size)).length = xs.length / size * size := by simp [hle]
  have htail : (tailOf size xs).length < size := by
    have := Nat.mod_lt xs.length hs
    have h2 := Nat.div_add_mod' xs.length size
    simp only [tailOf, List.length_drop]
    omega
  conv_lhs => rw [← List.take_append_drop (xs.length / size * size) xs, List.append_assoc,
    blocksOf_append hs _ _ _ hlen]
  congr 1
  conv_rhs => rw [← List.take_append_drop (xs.length / size * size) xs, blocksOf_append hs _ _ _ hlen]
  rw [show xs.drop (xs.length / size * size) = tailOf size xs from rfl, blocksOf_short htail,
    List.append_nil]

theorem length_tailOf {size : Nat} (bytes : List Byte) :
    (tailOf size bytes).length = bytes.length % size := by
  have h2 := Nat.div_add_mod' bytes.length size
  simp only [tailOf, List.length_drop]
  omega

/-- The tail of more bytes after a byte string depends on its tail alone. -/
theorem tailOf_append_tail {size : Nat} (hs : 0 < size) (xs rest : List Byte) :
    tailOf size (xs ++ rest) = tailOf size (tailOf size xs ++ rest) := by
  have h2 := Nat.div_add_mod' xs.length size
  have hlt := length_tailOf (size := size) xs
  have hdiv : (xs ++ rest).length / size
      = xs.length / size + (tailOf size xs ++ rest).length / size := by
    rw [List.length_append, List.length_append, hlt]
    conv_lhs => rw [← h2, Nat.add_assoc, Nat.add_comm, Nat.add_mul_div_right _ _ hs]
    omega
  rw [tailOf, tailOf, hdiv, Nat.add_mul, ← List.drop_drop]
  congr 1
  rw [List.drop_append_of_le_length (Nat.div_mul_le_self _ _)]
  rfl

theorem tailOf_short {size : Nat} {bytes : List Byte} (h : bytes.length < size) :
    tailOf size bytes = bytes := by
  simp [tailOf, Nat.div_eq_of_lt h]

end Sys2Proof.Machine
end

