-- ==== Sys2Proof/Laws/Memory.lean ====
section
/-! SUPPORT. Laws of byte arrays: a read after a write, the canonical form, and byte strings. -/

namespace Sys2Proof.Machine

theorem Memory.read_zeros (a : Nat) : Memory.zeros.read a = 0#8 := rfl

theorem Memory.wf_zeros : Memory.zeros.wf := by simp [Memory.zeros, Memory.wf]

theorem Memory.below_zeros (n : Nat) : Memory.zeros.below n := by simp [Memory.zeros, Memory.below]

theorem Memory.wf_tail {c : Host.Cell} {m : Memory} (h : Memory.wf (c :: m)) : Memory.wf m :=
  ⟨h.1.tail, fun d hd => h.2 d (List.mem_cons_of_mem _ hd)⟩

/-- An offset below every listed one reads as unlisted. -/
theorem Memory.read_of_lt {m : Memory} {a : Nat} (h : ∀ c ∈ m, a < c.1) : m.read a = 0#8 := by
  induction m with
  | nil => rfl
  | cons c m ih =>
    obtain ⟨k, b⟩ := c
    have hk : a < k := h (k, b) (by simp)
    simp only [Memory.read, if_neg (Nat.ne_of_gt hk)]
    exact ih fun d hd => h d (List.mem_cons_of_mem _ hd)

theorem Memory.read_of_below {n : Nat} {m : Memory} (h : m.below n) {a : Nat} (ha : n ≤ a) :
    m.read a = 0#8 := by
  induction m with
  | nil => rfl
  | cons c m ih =>
    obtain ⟨k, b⟩ := c
    have hk : k < n := h (k, b) (by simp)
    simp only [Memory.read, if_neg (show k ≠ a by omega)]
    exact ih fun d hd => h d (List.mem_cons_of_mem _ hd)

theorem Memory.read_cons' {m : Memory} {a : Nat} {v : Byte} (h : ∀ c ∈ m, a < c.1) (x : Nat) :
    (Memory.cons a v m).read x = if x = a then v else m.read x := by
  unfold Memory.cons
  by_cases hx : x = a
  · subst hx
    split
    · rename_i hv
      simp [hv, Memory.read_of_lt h]
    · simp [Memory.read]
  · split
    · simp
    · simp [Memory.read, Ne.symm hx]

theorem Memory.mem_cons' {m : Memory} {a : Nat} {v : Byte} {c : Host.Cell}
    (h : c ∈ Memory.cons a v m) : c = (a, v) ∧ v ≠ 0#8 ∨ c ∈ m := by
  unfold Memory.cons at h
  split at h
  · exact .inr h
  · rename_i hv
    simp only [List.mem_cons] at h
    exact h.imp (fun e => ⟨e, hv⟩) id

theorem Memory.wf_cons' {m : Memory} {a : Nat} {v : Byte} (hm : m.wf) (h : ∀ c ∈ m, a < c.1) :
    (Memory.cons a v m).wf := by
  unfold Memory.cons
  split
  · exact hm
  · rename_i hv
    refine ⟨List.pairwise_cons.2 ⟨h, hm.1⟩, fun c hc => ?_⟩
    simp only [List.mem_cons] at hc
    rcases hc with rfl | hc
    · exact hv
    · exact hm.2 c hc

theorem Memory.mem_write {m : Memory} {a : Nat} {v : Byte} {c : Host.Cell} (h : c ∈ m.write a v) :
    c.1 = a ∨ c ∈ m := by
  induction m with
  | nil => exact (Memory.mem_cons' h).imp (fun e => by simp [e.1]) id
  | cons d m ih =>
    obtain ⟨k, b⟩ := d
    simp only [Memory.write] at h
    split at h
    · exact (Memory.mem_cons' h).imp (fun e => by simp [e.1]) id
    · split at h
      · exact (Memory.mem_cons' h).imp (fun e => by simp [e.1]) fun e => List.mem_cons_of_mem _ e
      · simp only [List.mem_cons] at h ⊢
        rcases h with rfl | h
        · exact .inr (.inl rfl)
        · exact (ih h).imp id .inr

/-- A read after a write gives the byte written there, and the old byte everywhere else. -/
theorem Memory.read_write {m : Memory} (hm : m.wf) (a : Nat) (v : Byte) (x : Nat) :
    (m.write a v).read x = if x = a then v else m.read x := by
  induction m with
  | nil => exact Memory.read_cons' (by simp) x
  | cons c m ih =>
    obtain ⟨k, b⟩ := c
    have hlt : ∀ c ∈ m, k < c.1 := (List.pairwise_cons.1 hm.1).1
    simp only [Memory.write]
    split
    · rename_i hak
      refine Memory.read_cons' (fun c hc => ?_) x
      simp only [List.mem_cons] at hc
      rcases hc with rfl | hc
      · exact hak
      · exact Nat.lt_trans hak (hlt c hc)
    · split
      · rename_i hak
        subst hak
        rw [Memory.read_cons' hlt]
        by_cases hx : x = a
        · simp [hx]
        · simp [hx, Memory.read, Ne.symm hx]
      · simp only [Memory.read, ih (Memory.wf_tail hm)]
        by_cases hx : k = x
        · subst hx
          simp only [if_true]
          rw [if_neg (by omega)]
        · simp [hx]

theorem Memory.wf_write {m : Memory} (hm : m.wf) (a : Nat) (v : Byte) : (m.write a v).wf := by
  induction m with
  | nil => exact Memory.wf_cons' (m := []) (by simp [Memory.wf]) (by simp)
  | cons c m ih =>
    obtain ⟨k, b⟩ := c
    have hlt : ∀ c ∈ m, k < c.1 := (List.pairwise_cons.1 hm.1).1
    simp only [Memory.write]
    split
    · rename_i hak
      refine Memory.wf_cons' hm fun c hc => ?_
      simp only [List.mem_cons] at hc
      rcases hc with rfl | hc
      · exact hak
      · exact Nat.lt_trans hak (hlt c hc)
    · split
      · rename_i hak
        exact Memory.wf_cons' (Memory.wf_tail hm) (hak ▸ hlt)
      · have ih := ih (Memory.wf_tail hm)
        refine ⟨List.pairwise_cons.2 ⟨fun c hc => ?_, ih.1⟩, fun c hc => ?_⟩
        · rcases Memory.mem_write hc with e | hc
          · simp only; omega
          · exact hlt c hc
        · simp only [List.mem_cons] at hc
          rcases hc with rfl | hc
          · exact hm.2 (k, b) (by simp)
          · exact ih.2 c hc

theorem Memory.below_write {m : Memory} {n a : Nat} (hm : m.below n) (ha : a < n) (v : Byte) :
    (m.write a v).below n := fun c hc =>
  (Memory.mem_write hc).elim (fun e => e ▸ ha) (hm c)

theorem Memory.wf_writeBytes {m : Memory} (hm : m.wf) (a : Nat) (bs : List Byte) :
    (m.writeBytes a bs).wf := by
  induction bs generalizing m a with
  | nil => exact hm
  | cons b bs ih => exact ih (Memory.wf_write hm a b) (a + 1)

theorem Memory.below_writeBytes {m : Memory} {n a : Nat} {bs : List Byte} (hm : m.below n)
    (h : a + bs.length ≤ n) : (m.writeBytes a bs).below n := by
  induction bs generalizing m a with
  | nil => exact hm
  | cons b bs ih =>
    simp only [List.length_cons] at h
    exact ih (Memory.below_write hm (by omega) b) (by omega)

/-- A read after a byte string was written gives its byte inside, and the old byte outside. -/
theorem Memory.read_writeBytes {m : Memory} (hm : m.wf) (a : Nat) (bs : List Byte) (x : Nat) :
    (m.writeBytes a bs).read x
      = if a ≤ x ∧ x < a + bs.length then bs.getD (x - a) 0#8 else m.read x := by
  induction bs generalizing m a with
  | nil => simp only [Memory.writeBytes, List.length_nil]; rw [if_neg (by omega)]
  | cons b bs ih =>
    simp only [Memory.writeBytes, ih (Memory.wf_write hm a b), Memory.read_write hm,
      List.length_cons]
    by_cases h1 : a + 1 ≤ x ∧ x < a + 1 + bs.length
    · rw [if_pos h1, if_pos (by omega), show x - a = x - (a + 1) + 1 by omega]
      simp
    · rw [if_neg h1]
      by_cases h2 : x = a
      · subst h2
        simp
      · rw [if_neg h2, if_neg (by omega)]

theorem Memory.wf_ofBytes (bs : List Byte) : (Memory.ofBytes bs).wf :=
  Memory.wf_writeBytes Memory.wf_zeros 0 bs

theorem Memory.below_ofBytes (bs : List Byte) : (Memory.ofBytes bs).below bs.length :=
  Memory.below_writeBytes (Memory.below_zeros _) (by simp)

theorem Memory.read_ofBytes (bs : List Byte) (x : Nat) :
    (Memory.ofBytes bs).read x = bs.getD x 0#8 := by
  rw [Memory.ofBytes, Memory.read_writeBytes Memory.wf_zeros, Memory.read_zeros]
  by_cases h : x < bs.length
  · rw [if_pos (by omega)]; simp
  · rw [if_neg (by omega)]; simp [List.getD, List.getElem?_eq_none (Nat.le_of_not_lt h)]

@[simp] theorem Memory.length_readBytes (m : Memory) (a n : Nat) : (m.readBytes a n).length = n := by
  induction n generalizing a with
  | zero => rfl
  | succ n ih => simp [Memory.readBytes, ih]

theorem Memory.getElem_readBytes (m : Memory) (a n i : Nat) (h : i < (m.readBytes a n).length) :
    (m.readBytes a n)[i] = m.read (a + i) := by
  induction n generalizing a i with
  | zero => simp at h
  | succ n ih =>
    cases i with
    | zero => rfl
    | succ i =>
      simp only [Memory.readBytes, List.getElem_cons_succ]
      rw [ih]
      congr 1
      omega

theorem Memory.getD_readBytes (m : Memory) (a n i : Nat) :
    (m.readBytes a n).getD i 0#8 = if i < n then m.read (a + i) else 0#8 := by
  by_cases h : i < n
  · have h' : i < (m.readBytes a n).length := by simpa using h
    simp [List.getD, Memory.getElem_readBytes, h]
  · simp [List.getD, h]

/-- Two arrays that read the same over a range give the same byte string. -/
theorem Memory.readBytes_congr {m m' : Memory} {a a' n : Nat}
    (h : ∀ i < n, m.read (a + i) = m'.read (a' + i)) : m.readBytes a n = m'.readBytes a' n := by
  apply List.ext_getElem (by simp)
  intro i h1 h2
  rw [Memory.getElem_readBytes, Memory.getElem_readBytes]
  exact h i (by simpa using h1)

theorem Memory.readBytes_add (m : Memory) (a p q : Nat) :
    m.readBytes a (p + q) = m.readBytes a p ++ m.readBytes (a + p) q := by
  induction p generalizing a with
  | zero => simp [Memory.readBytes]
  | succ p ih =>
    rw [Nat.succ_add, Memory.readBytes, Memory.readBytes, ih, List.cons_append,
      show a + 1 + p = a + (p + 1) by omega]

/-- Arrays in canonical form that read the same are the same data. -/
theorem Memory.ext_read {m m' : Memory} (hm : m.wf) (hm' : m'.wf) (h : ∀ a, m.read a = m'.read a) :
    m = m' := by
  induction m generalizing m' with
  | nil =>
    cases m' with
    | nil => rfl
    | cons c m' =>
      obtain ⟨k, b⟩ := c
      have := h k
      simp [Memory.read] at this
      exact absurd this.symm (hm'.2 (k, b) (by simp))
  | cons c m ih =>
    obtain ⟨k, b⟩ := c
    have hlt : ∀ c ∈ m, k < c.1 := (List.pairwise_cons.1 hm.1).1
    have hb : b ≠ 0#8 := hm.2 (k, b) (by simp)
    cases m' with
    | nil =>
      have := h k
      simp [Memory.read] at this
      exact absurd this hb
    | cons c' m' =>
      obtain ⟨k', b'⟩ := c'
      have hlt' : ∀ c ∈ m', k' < c.1 := (List.pairwise_cons.1 hm'.1).1
      have hb' : b' ≠ 0#8 := hm'.2 (k', b') (by simp)
      have hkk : k = k' := by
        rcases Nat.lt_trichotomy k k' with hl | hl | hl
        · have := h k
          simp only [Memory.read, if_true, if_neg (Nat.ne_of_gt hl)] at this
          rw [Memory.read_of_lt fun c hc => Nat.lt_trans hl (hlt' c hc)] at this
          exact absurd this hb
        · exact hl
        · have := h k'
          simp only [Memory.read, if_true, if_neg (Nat.ne_of_gt hl)] at this
          rw [Memory.read_of_lt fun c hc => Nat.lt_trans hl (hlt c hc)] at this
          exact absurd this.symm hb'
      subst hkk
      have hbb : b = b' := by simpa [Memory.read] using h k
      subst hbb
      congr 1
      refine ih (Memory.wf_tail hm) (Memory.wf_tail hm') fun a => ?_
      by_cases ha : k = a
      · subst ha
        rw [Memory.read_of_lt hlt, Memory.read_of_lt hlt']
      · simpa [Memory.read, ha] using h a

theorem length_zeroBytes (n : Nat) : (zeroBytes n).length = n := by simp [zeroBytes]

theorem getD_zeroBytes (n i : Nat) : (zeroBytes n).getD i 0#8 = 0#8 := by
  unfold zeroBytes
  by_cases h : i < n <;> simp [List.getD, h]

end Sys2Proof.Machine
end

