-- ==== Sys2Proof/Laws/Padding.lean ====
section
/-! SUPPORT. What the padding engine can do: its three outcomes, the bytes it leaves, and that it keeps
the canonical form and the size of `BUF`. -/

namespace Sys2Proof.Machine

/-- The block size of a selected variant passes the check of 42_padding.md R151. -/
theorem blockSize_supported (a : Alg) : ¬ (blockSize a ≠ 64 ∧ blockSize a ≠ 128) := by
  have := blockSize_cases a
  omega

theorem length_beStore {w : Nat} (k : Nat) (v : BitVec w) : (beStore k v).length = k := by
  simp [beStore]

theorem length_lengthField (bitlen : Nat) : (lengthField bitlen).length = 8 := length_beStore 8 _

theorem lengthField_of_lt {bitlen : Nat} (h : bitlen < 2 ^ 64) :
    lengthField bitlen = beStore 8 (BitVec.ofNat 64 bitlen) := by
  rw [lengthField, if_pos h]

/-- `PADF` on a count that overflows reports `Fail` and writes nothing. -/
theorem padF_overflow {lr : Config.LenReserve} {size : Nat} {buf : Memory} {count : Nat}
    (hs : size = 64 ∨ size = 128) (h : 2 ^ 61 ≤ count) :
    padF lr size buf count = ⟨buf, .fail .bitlenOverflow⟩ := by
  rw [padF, if_neg (by omega), if_pos h]

/-- `PADF` where the length field fits. -/
theorem padF_fits {lr : Config.LenReserve} {size : Nat} {buf : Memory} {count : Nat}
    (hs : size = 64 ∨ size = 128) (h : count < 2 ^ 61)
    (hfit : lr size ≤ size - (count % size + 1)) :
    padF lr size buf count =
      ⟨((buf.write (count % size) marker).writeBytes (count % size + 1)
          (zeroBytes (size - 9 - count % size))).writeBytes (size - 8) (lengthField (count * 8)),
        .done⟩ := by
  rw [padF, if_neg (by omega), if_neg (by omega), if_pos hfit]

/-- `PADF` where the length field does not fit. -/
theorem padF_spills {lr : Config.LenReserve} {size : Nat} {buf : Memory} {count : Nat}
    (hs : size = 64 ∨ size = 128) (h : count < 2 ^ 61)
    (hfit : ¬ lr size ≤ size - (count % size + 1)) :
    padF lr size buf count =
      ⟨(buf.write (count % size) marker).writeBytes (count % size + 1)
          (zeroBytes (size - 1 - count % size)), .secondBlockNeeded⟩ := by
  rw [padF, if_neg (by omega), if_neg (by omega), if_neg hfit]

theorem padL_supported {size : Nat} {buf : Memory} {count : Nat} (hs : size = 64 ∨ size = 128) :
    padL size buf count = ⟨buf.writeBytes (size - 8) (lengthField (count * 8)), .done⟩ := by
  rw [padL, if_neg (by omega)]

theorem padF_wf {lr : Config.LenReserve} {size : Nat} {buf : Memory} (count : Nat) (h : buf.wf) :
    (padF lr size buf count).buf.wf := by
  unfold padF
  split
  · exact h
  split
  · exact h
  dsimp only
  split
  · exact Memory.wf_writeBytes (Memory.wf_writeBytes (Memory.wf_write h _ _) _ _) _ _
  · exact Memory.wf_writeBytes (Memory.wf_write h _ _) _ _

theorem padL_wf {size : Nat} {buf : Memory} (count : Nat) (h : buf.wf) :
    (padL size buf count).buf.wf := by
  unfold padL
  split
  · exact h
  · exact Memory.wf_writeBytes h _ _

theorem padF_below {lr : Config.LenReserve} {size : Nat} {buf : Memory} (count : Nat)
    (hlr : 8 ≤ lr size) (h : buf.below size) : (padF lr size buf count).buf.below size := by
  unfold padF
  split
  · exact h
  split
  · exact h
  dsimp only
  have hoff : count % size < size := Nat.mod_lt _ (by omega)
  split
  · refine Memory.below_writeBytes (Memory.below_writeBytes (Memory.below_write h hoff _) ?_) ?_
    · rw [length_zeroBytes]; omega
    · rw [length_lengthField]; omega
  · refine Memory.below_writeBytes (Memory.below_write h hoff _) ?_
    rw [length_zeroBytes]; omega

theorem padL_below {size : Nat} {buf : Memory} (count : Nat) (h : buf.below size) :
    (padL size buf count).buf.below size := by
  unfold padL
  split
  · exact h
  · refine Memory.below_writeBytes h ?_
    rw [length_lengthField]; omega

/-- The bytes after a first pass in which the length field fits (20_memory.md R60). -/
theorem read_padF_fits {lr : Config.LenReserve} {size : Nat} {buf : Memory} {count : Nat}
    (hw : buf.wf) (hs : size = 64 ∨ size = 128) (h : count < 2 ^ 61)
    (hlr : 8 ≤ lr size) (hfit : lr size ≤ size - (count % size + 1)) (i : Nat) :
    (padF lr size buf count).buf.read i =
      if size - 8 ≤ i ∧ i < size then (lengthField (count * 8)).getD (i - (size - 8)) 0#8
      else if i = count % size then marker
      else if count % size < i ∧ i < size then 0#8
      else buf.read i := by
  rw [padF_fits hs h hfit, Memory.read_writeBytes (Memory.wf_writeBytes (Memory.wf_write hw _ _) _ _),
    Memory.read_writeBytes (Memory.wf_write hw _ _), Memory.read_write hw, length_lengthField,
    length_zeroBytes, getD_zeroBytes]
  by_cases h1 : size - 8 ≤ i ∧ i < size
  · rw [if_pos h1, if_pos (by omega)]
  · rw [if_neg h1, if_neg (by omega)]
    split_ifs <;> first | rfl | omega

/-- The bytes after a first pass in which the length field does not fit (20_memory.md R60). -/
theorem read_padF_spills {lr : Config.LenReserve} {size : Nat} {buf : Memory} {count : Nat}
    (hw : buf.wf) (hs : size = 64 ∨ size = 128) (h : count < 2 ^ 61)
    (hfit : ¬ lr size ≤ size - (count % size + 1)) (i : Nat) :
    (padF lr size buf count).buf.read i =
      if i = count % size then marker
      else if count % size < i ∧ i < size then 0#8
      else buf.read i := by
  have hoff : count % size < size := Nat.mod_lt _ (by omega)
  rw [padF_spills hs h hfit, Memory.read_writeBytes (Memory.wf_write hw _ _), Memory.read_write hw,
    length_zeroBytes, getD_zeroBytes]
  split_ifs <;> first | rfl | omega

/-- The bytes after the finalization pass (42_padding.md R160). -/
theorem read_padL {size : Nat} {buf : Memory} {count : Nat} (hw : buf.wf)
    (hs : size = 64 ∨ size = 128) (i : Nat) :
    (padL size buf count).buf.read i =
      if size - 8 ≤ i ∧ i < size then (lengthField (count * 8)).getD (i - (size - 8)) 0#8
      else buf.read i := by
  rw [padL_supported hs, Memory.read_writeBytes hw, length_lengthField]
  by_cases h1 : size - 8 ≤ i ∧ i < size
  · rw [if_pos h1, if_pos (by omega)]
  · rw [if_neg h1, if_neg (by omega)]

/-- What a first pass reports, for a supported block size. -/
theorem padF_report {lr : Config.LenReserve} {size : Nat} {buf : Memory} {count : Nat}
    (hs : size = 64 ∨ size = 128) :
    (padF lr size buf count).report =
      if 2 ^ 61 ≤ count then .fail .bitlenOverflow
      else if lr size ≤ size - (count % size + 1) then .done
      else .secondBlockNeeded := by
  by_cases h : 2 ^ 61 ≤ count
  · rw [padF_overflow hs h, if_pos h]
  · rw [if_neg h]
    by_cases hfit : lr size ≤ size - (count % size + 1)
    · rw [padF_fits hs (by omega) hfit, if_pos hfit]
    · rw [padF_spills hs (by omega) hfit, if_neg hfit]

end Sys2Proof.Machine
end

