-- ==== Sys2Proof/Laws/Streaming.lean ====
section
/-! SUPPORT. What the streaming controller can do: `directBlocks`, `absorb` and `finalize`, once each. -/

namespace Sys2Proof.Machine

/-! The direct blocks of an `UPDATE` write `H` and the transients of the engine alone. -/

@[simp] theorem directBlocks_phase (size blocks pos : Nat) (s : State) :
    (directBlocks size blocks pos s).phase = s.phase := by
  induction blocks generalizing pos s with
  | zero => rfl
  | succ n ih => rw [directBlocks, ih]; rfl

@[simp] theorem directBlocks_count (size blocks pos : Nat) (s : State) :
    (directBlocks size blocks pos s).count = s.count := by
  induction blocks generalizing pos s with
  | zero => rfl
  | succ n ih => rw [directBlocks, ih]; rfl

@[simp] theorem directBlocks_fill (size blocks pos : Nat) (s : State) :
    (directBlocks size blocks pos s).fill = s.fill := by
  induction blocks generalizing pos s with
  | zero => rfl
  | succ n ih => rw [directBlocks, ih]; rfl

@[simp] theorem directBlocks_buf (size blocks pos : Nat) (s : State) :
    (directBlocks size blocks pos s).buf = s.buf := by
  induction blocks generalizing pos s with
  | zero => rfl
  | succ n ih => rw [directBlocks, ih]; rfl

@[simp] theorem directBlocks_res (size blocks pos : Nat) (s : State) :
    (directBlocks size blocks pos s).res = s.res := by
  induction blocks generalizing pos s with
  | zero => rfl
  | succ n ih => rw [directBlocks, ih]; rfl

@[simp] theorem directBlocks_padReport (size blocks pos : Nat) (s : State) :
    (directBlocks size blocks pos s).padReport = s.padReport := by
  induction blocks generalizing pos s with
  | zero => rfl
  | succ n ih => rw [directBlocks, ih]; rfl

@[simp] theorem directBlocks_outlen (size blocks pos : Nat) (s : State) :
    (directBlocks size blocks pos s).outlen = s.outlen := by
  induction blocks generalizing pos s with
  | zero => rfl
  | succ n ih => rw [directBlocks, ih]; rfl

@[simp] theorem directBlocks_inp (size blocks pos : Nat) (s : State) :
    (directBlocks size blocks pos s).inp = s.inp := by
  induction blocks generalizing pos s with
  | zero => rfl
  | succ n ih => rw [directBlocks, ih]; rfl

@[simp] theorem directBlocks_out (size blocks pos : Nat) (s : State) :
    (directBlocks size blocks pos s).out = s.out := by
  induction blocks generalizing pos s with
  | zero => rfl
  | succ n ih => rw [directBlocks, ih]; rfl

@[simp] theorem directBlocks_pending (size blocks pos : Nat) (s : State) :
    (directBlocks size blocks pos s).pending = s.pending := by
  induction blocks generalizing pos s with
  | zero => rfl
  | succ n ih => rw [directBlocks, ih]; rfl

@[simp] theorem directBlocks_freeCtr (size blocks pos : Nat) (s : State) :
    (directBlocks size blocks pos s).freeCtr = s.freeCtr := by
  induction blocks generalizing pos s with
  | zero => rfl
  | succ n ih => rw [directBlocks, ih]; rfl

/-- The direct blocks are compressed in ascending order, each from `IN`. -/
theorem directBlocks_algH {size : Nat} (blocks pos : Nat) (s : State)
    (hs : s.algH.bufSize = size) :
    (directBlocks size blocks pos s).algH
      = compressAll s.algH ((List.range blocks).map fun j => s.inp.readBytes (pos + j * size) size) := by
  induction blocks generalizing pos s with
  | zero => rfl
  | succ n ih =>
    rw [directBlocks, ih _ _ (by simpa using hs), List.range_succ_eq_map, List.map_cons,
      compressAll_cons, List.map_map]
    simp only [compress_algH, compress_inp, State.block, select_src, select_inp, hs]
    refine congrArg₂ compressAll ?_ ?_
    · simp
    · refine List.map_congr_left fun j _ => ?_
      simp only [Function.comp]
      congr 1
      rw [Nat.succ_mul]
      omega

/-- A run of bytes cut into blocks from an offset on. -/
theorem blocksOf_readBytes {size : Nat} (hs : 0 < size) (m : Memory) (a k r : Nat) (hr : r < size) :
    blocksOf size (m.readBytes a (k * size + r))
      = (List.range k).map fun j => m.readBytes (a + j * size) size := by
  induction k generalizing a with
  | zero =>
    rw [Nat.zero_mul, Nat.zero_add, blocksOf_short (by rwa [Memory.length_readBytes])]
    rfl
  | succ k ih =>
    rw [show (k + 1) * size + r = size + (k * size + r) by rw [Nat.succ_mul]; omega,
      Memory.readBytes_add, blocksOf_block_append hs _ _ (by simp), ih,
      List.range_succ_eq_map, List.map_cons, List.map_map]
    congr 1
    · simp
    · refine List.map_congr_left fun j _ => ?_
      simp only [Function.comp]
      congr 1
      rw [Nat.succ_mul]
      omega

/-! `UPDATE` leaves alone what it does not name. -/

@[simp] theorem absorb_phase (size n : Nat) (s : State) : (absorb size n s).phase = s.phase := by
  rw [absorb]
  split <;> simp [absorbBlocks]

@[simp] theorem absorb_padReport (size n : Nat) (s : State) : (absorb size n s).padReport = .noValue := by
  rw [absorb]
  split <;> rfl

@[simp] theorem absorb_src (size n : Nat) (s : State) : (absorb size n s).src = .buf := by
  rw [absorb]
  split <;> rfl

@[simp] theorem absorb_outlen (size n : Nat) (s : State) : (absorb size n s).outlen = 0 := by
  rw [absorb]
  split <;> rfl

@[simp] theorem absorb_inp (size n : Nat) (s : State) : (absorb size n s).inp = s.inp := by
  rw [absorb]
  split <;> simp [absorbBlocks]

@[simp] theorem absorb_out (size n : Nat) (s : State) : (absorb size n s).out = s.out := by
  rw [absorb]
  split <;> simp [absorbBlocks]

@[simp] theorem absorb_pending (size n : Nat) (s : State) : (absorb size n s).pending = s.pending := by
  rw [absorb]
  split <;> simp [absorbBlocks]

@[simp] theorem absorb_freeCtr (size n : Nat) (s : State) : (absorb size n s).freeCtr = s.freeCtr := by
  rw [absorb]
  split <;> simp [absorbBlocks]

@[simp] theorem absorb_res (size n : Nat) (s : State) : (absorb size n s).res = .ok := by
  rw [absorb]
  split <;> rfl

@[simp] theorem absorb_count (size n : Nat) (s : State) :
    (absorb size n s).count = (s.advance n).count := by
  rw [absorb]
  split
  · rfl
  · simp only [absorbBlocks, answer_count, keepRemainder_count, directBlocks_count,
      completeBuffer_count]

/-- The bytes of the message that stand in `BUF`, followed by the new ones. -/
abbrev State.pendingBytes (s : State) (n : Nat) : List Byte :=
  s.buf.readBytes 0 s.fill ++ s.inp.readBytes 0 n

/-- The number of bytes after the whole blocks of an `UPDATE` that completes the buffer. -/
theorem absorb_remainder {size fill n : Nat} (hf : fill < size)
    (hn : size ≤ fill + n) :
    n - (size - fill + (n - (size - fill)) / size * size) = (fill + n) % size := by
  have h := Nat.div_add_mod' (n - (size - fill)) size
  have h2 : fill + n = (n - (size - fill)) + size := by omega
  rw [h2, Nat.add_mod_right]
  omega

theorem absorb_fill {size : Nat} (n : Nat) (s : State) (hf : s.fill < size) :
    (absorb size n s).fill = (s.fill + n) % size := by
  rw [absorb]
  split
  · rename_i h
    exact (Nat.mod_eq_of_lt h).symm
  · rename_i h
    exact absorb_remainder (fill := s.fill) hf (by omega)

/-- `H` after an `UPDATE`: the whole blocks among the bytes in `BUF` and the new ones, compressed in
order (41_streaming_engine.md R131 to R134). -/
theorem absorb_algH {size : Nat} (n : Nat) (s : State) (hs : s.algH.bufSize = size)
    (hw : s.buf.wf) (hf : s.fill < size) :
    (absorb size n s).algH = compressAll s.algH (blocksOf size (s.pendingBytes n)) := by
  rw [absorb]
  split
  · rename_i h
    rw [blocksOf_short (by simpa using h)]
    rfl
  · rename_i h
    have hsize : 0 < size := by omega
    simp only [absorbBlocks, answer_algH, keepRemainder_algH, advance_fill]
    rw [directBlocks_algH _ _ _ (by simpa using hs), completeBuffer_algH, completeBuffer_inp,
      ← compressAll_cons]
    simp only [advance_algH, advance_buf, advance_fill, advance_inp, State.input]
    congr 1
    have hrem := Nat.div_add_mod' (n - (size - s.fill)) size
    have hfull : (s.buf.writeBytes s.fill (s.inp.readBytes 0 (size - s.fill))).readBytes 0 size
        = s.buf.readBytes 0 s.fill ++ s.inp.readBytes 0 (size - s.fill) := by
      conv_lhs => rw [show size = s.fill + (size - s.fill) by omega, Memory.readBytes_add]
      refine congr (congrArg _ (Memory.readBytes_congr fun i hi => ?_))
        (Memory.readBytes_congr fun i hi => ?_)
      · rw [Memory.read_writeBytes hw, if_neg (by omega)]
      · rw [Memory.read_writeBytes hw, if_pos (by simp; omega), Memory.getD_readBytes,
          if_pos (by omega)]
        congr 1
        omega
    rw [State.pendingBytes,
      show s.inp.readBytes 0 n
          = s.inp.readBytes 0 (size - s.fill)
            ++ s.inp.readBytes (size - s.fill) (n - (size - s.fill)) by
        conv_lhs => rw [show n = (size - s.fill) + (n - (size - s.fill)) by omega,
          Memory.readBytes_add, Nat.zero_add],
      ← List.append_assoc, blocksOf_block_append hsize _ _ (by simp; omega), hs]
    refine congr (congrArg List.cons hfull) ?_
    conv_rhs => rw [← hrem]
    rw [blocksOf_readBytes hsize _ _ _ _ (Nat.mod_lt _ hsize)]

/-- `BUF` after an `UPDATE` that fills no block (41_streaming_engine.md R131). -/
theorem read_absorb_short {size : Nat} (n : Nat) (s : State) (hw : s.buf.wf)
    (h : s.fill + n < size) (i : Nat) :
    (absorb size n s).buf.read i
      = if s.fill ≤ i ∧ i < s.fill + n then s.inp.read (i - s.fill) else s.buf.read i := by
  rw [absorb, if_pos h, answer_buf, appendInput_buf, advance_buf, Memory.read_writeBytes hw]
  simp only [State.input, Memory.length_readBytes, Memory.getD_readBytes, advance_fill, advance_inp]
  split_ifs
  · simp
  · omega
  · rfl

/-- `BUF` after an `UPDATE` that completes the buffer (41_streaming_engine.md R134). -/
theorem read_absorb_long {size : Nat} (n : Nat) (s : State) (hf : s.fill < size)
    (h : size ≤ s.fill + n) (i : Nat) :
    (absorb size n s).buf.read i
      = if i < (s.fill + n) % size then s.inp.read (n - (s.fill + n) % size + i) else 0#8 := by
  have hs : 0 < size := by omega
  have hrem := absorb_remainder hf h
  have hrem' := Nat.div_add_mod' (n - (size - s.fill)) size
  rw [absorb, if_neg (by omega)]
  simp only [absorbBlocks, answer_buf, keepRemainder_buf, directBlocks_buf, completeBuffer_buf,
    advance_fill]
  rw [Memory.read_writeBytes Memory.wf_zeros, hrem]
  simp only [State.input, Memory.length_readBytes, Memory.getD_readBytes, directBlocks_inp,
    completeBuffer_inp, advance_inp, Memory.read_zeros]
  generalize (n - (size - s.fill)) / size * size = q at *
  split_ifs <;> first | rfl | omega | (congr 1; omega)

theorem absorb_buf_wf {size : Nat} (n : Nat) (s : State) (hw : s.buf.wf) :
    (absorb size n s).buf.wf := by
  rw [absorb]
  split
  · exact Memory.wf_writeBytes hw _ _
  · simp only [absorbBlocks, answer_buf, keepRemainder_buf, directBlocks_buf, completeBuffer_buf]
    exact Memory.wf_writeBytes Memory.wf_zeros _ _

theorem absorb_buf_below {size : Nat} (n : Nat) (s : State) (hb : s.buf.below size)
    (hf : s.fill < size) : (absorb size n s).buf.below size := by
  rw [absorb]
  split
  · rename_i h
    refine Memory.below_writeBytes hb ?_
    simp only [State.input, Memory.length_readBytes]
    exact Nat.le_of_lt h
  · rename_i h
    simp only [absorbBlocks, answer_buf, keepRemainder_buf, directBlocks_buf, completeBuffer_buf,
      advance_fill]
    refine Memory.below_writeBytes (Memory.below_zeros _) ?_
    simp only [State.input, Memory.length_readBytes]
    rw [absorb_remainder hf (by omega)]
    have := Nat.mod_lt (s.fill + n) (show 0 < size by omega)
    omega

/-! `FINISH`: which of its three ends it takes. -/

/-- `FINISH` fails exactly where the bit length overflows (41_streaming_engine.md R141). -/
theorem finalize_overflow {lr : Config.LenReserve} {outlen : Nat} {s : State} {a : Alg}
    (ha : s.alg = some a) (h : 2 ^ 61 ≤ s.count.toNat) :
    finalize lr outlen s = takeFailure (runPadF lr (s.latchOutlen outlen)) := by
  have hs := bufSize_of_alg ha
  simp only [finalize, runPadF_padReport]
  rw [padF_report (by simpa [hs] using blockSize_cases a), if_pos (by simpa using h)]

/-- `FINISH` in one block (41_streaming_engine.md R137, R139, R140). -/
theorem finalize_fits {lr : Config.LenReserve} {outlen : Nat} {s : State} {a : Alg}
    (ha : s.alg = some a) (h : s.count.toNat < 2 ^ 61)
    (hfit : lr (blockSize a) ≤ blockSize a - (s.count.toNat % blockSize a + 1)) :
    finalize lr outlen s = finishDigest (runPadF lr (s.latchOutlen outlen)) := by
  have hs := bufSize_of_alg ha
  simp only [finalize, runPadF_padReport, latchOutlen_algH, latchOutlen_count, latchOutlen_buf]
  rw [padF_report (by simpa [hs] using blockSize_cases a), if_neg (by omega), hs,
    if_pos hfit]

/-- `FINISH` in two blocks (41_streaming_engine.md R138 to R140). -/
theorem finalize_spills {lr : Config.LenReserve} {outlen : Nat} {s : State} {a : Alg}
    (ha : s.alg = some a) (h : s.count.toNat < 2 ^ 61)
    (hfit : ¬ lr (blockSize a) ≤ blockSize a - (s.count.toNat % blockSize a + 1)) :
    finalize lr outlen s
      = finishDigest (runPadL (betweenPasses (runPadF lr (s.latchOutlen outlen)))) := by
  have hs := bufSize_of_alg ha
  simp only [finalize, runPadF_padReport, latchOutlen_algH, latchOutlen_count, latchOutlen_buf]
  rw [padF_report (by simpa [hs] using blockSize_cases a), if_neg (by omega), hs,
    if_neg hfit]
  simp only [runPadL_padReport]
  rw [padL_supported (by
    simp only [betweenPasses_algH, algH_compress_bufSize, runPadF_algH, latchOutlen_algH]
    rw [hs]
    exact blockSize_cases a)]

/-- What `FINISH` can be: a failure exactly where the bit length overflows, else the end of `FINISH` on
the state that one pass, or two passes, of padding leave. -/
theorem finalize_cases (lr : Config.LenReserve) (outlen : Nat) {s : State} {a : Alg}
    (ha : s.alg = some a) :
    (2 ^ 61 ≤ s.count.toNat
        ∧ finalize lr outlen s = takeFailure (runPadF lr (s.latchOutlen outlen)))
      ∨ (s.count.toNat < 2 ^ 61
        ∧ lr (blockSize a) ≤ blockSize a - (s.count.toNat % blockSize a + 1)
        ∧ finalize lr outlen s = finishDigest (runPadF lr (s.latchOutlen outlen)))
      ∨ (s.count.toNat < 2 ^ 61
        ∧ ¬ lr (blockSize a) ≤ blockSize a - (s.count.toNat % blockSize a + 1)
        ∧ finalize lr outlen s
          = finishDigest (runPadL (betweenPasses (runPadF lr (s.latchOutlen outlen))))) := by
  by_cases h : 2 ^ 61 ≤ s.count.toNat
  · exact .inl ⟨h, finalize_overflow ha h⟩
  · by_cases hfit : lr (blockSize a) ≤ blockSize a - (s.count.toNat % blockSize a + 1)
    · exact .inr (.inl ⟨by omega, hfit, finalize_fits ha (by omega) hfit⟩)
    · exact .inr (.inr ⟨by omega, hfit, finalize_spills ha (by omega) hfit⟩)

end Sys2Proof.Machine
end

