-- ==== Sys2Proof/Laws/Exec.lean ====
section
/-! SUPPORT. What each instruction can answer, said once: where it completes and what state it leaves; and
what a step can do. -/

namespace Sys2Proof.Machine

theorem useRefusal_none {p : Phase} : useRefusal p = none ↔ p = .ready := by cases p <;> simp [useRefusal]

theorem initRefusal_none {p : Phase} : initRefusal p = none ↔ p ≠ .unsel := by cases p <;> simp [initRefusal]

/-- `INIT` completes exactly where a variant is selected and the phase is not UNSEL. -/
theorem execInit_next {s t : State} :
    execInit s = .next t ↔ s.phase ≠ .unsel ∧ ∃ a, s.alg = some a ∧ t = initContext a s := by
  unfold execInit
  rcases h : initRefusal s.phase with _ | r
  · rw [initRefusal_none] at h
    rcases ha : s.alg with _ | a <;> simp [h, eq_comm]
  · have : s.phase = .unsel := by
      by_contra hn
      rw [initRefusal_none.mpr hn] at h
      cases h
    simp [this]

/-- `UPDATE` completes exactly in READY, with a variant selected and no overflow of `count`; with no bytes
it writes `RES` alone. -/
theorem execUpdate_next {n : Nat} {s t : State} :
    execUpdate n s = .next t ↔
      s.phase = .ready ∧ ∃ a, s.alg = some a ∧
        (n = 0 ∧ t = s.answer .ok
          ∨ n ≠ 0 ∧ s.count.toNat + n < 2 ^ 64 ∧ t = absorb (blockSize a) n s) := by
  unfold execUpdate
  rcases h : useRefusal s.phase with _ | r
  · rw [useRefusal_none] at h
    rcases ha : s.alg with _ | a
    · simp
    · by_cases hn : n = 0
      · simp [h, hn, eq_comm]
      · by_cases hc : s.count.toNat + n < 2 ^ 64
        · simp only [hn, if_false, if_pos hc]
          simp [h, hn, show s.count.toNat + n < 18446744073709551616 from hc, eq_comm]
        · simp only [hn, if_false, if_neg hc]
          simp [h, show ¬ s.count.toNat + n < 18446744073709551616 from hc]
  · have : s.phase ≠ .ready := by
      intro hp
      rw [useRefusal_none.mpr hp] at h
      cases h
    simp [this]

/-- `FINISH` completes exactly in READY with a variant selected. -/
theorem execFinishAt_next {lr : Config.LenReserve} {outlen : Nat} {s t : State} :
    execFinishAt lr outlen s = .next t ↔
      s.phase = .ready ∧ (∃ a, s.alg = some a) ∧ t = finalize lr outlen s := by
  unfold execFinishAt
  rcases h : useRefusal s.phase with _ | r
  · rw [useRefusal_none] at h
    rcases ha : s.alg with _ | a <;> simp [h, eq_comm]
  · have : s.phase ≠ .ready := by
      intro hp
      rw [useRefusal_none.mpr hp] at h
      cases h
    simp [this]

theorem execFinish_next {outlen : Nat} {s t : State} :
    execFinish outlen s = .next t ↔
      s.phase = .ready ∧ (∃ a, s.alg = some a) ∧ t = finalize lenReserve outlen s :=
  execFinishAt_next

theorem execPadfAt_next {lr : Config.LenReserve} {s t : State} :
    execPadfAt lr s = .next t ↔ (∃ a, s.alg = some a) ∧ t = runPadF lr s := by
  unfold execPadfAt
  rcases s.alg with _ | a <;> simp [eq_comm]

theorem execPadf_next {s t : State} :
    execPadf s = .next t ↔ (∃ a, s.alg = some a) ∧ t = runPadF lenReserve s :=
  execPadfAt_next

theorem execPadl_next {s t : State} :
    execPadl s = .next t ↔ (∃ a, s.alg = some a) ∧ t = runPadL s := by
  unfold execPadl
  rcases s.alg with _ | a <;> simp [eq_comm]

theorem execSer_next {s t : State} : execSer s = .next t ↔ (∃ a, s.alg = some a) ∧ t = runSer s := by
  unfold execSer
  rcases s.alg with _ | a <;> simp [eq_comm]

theorem execCmp1_next {s t : State} :
    execCmp1 s = .next t ↔ s.alg = some .sha1 ∧ t = s.compress s.src := by
  unfold execCmp1
  rcases s.alg with _ | a
  · simp
  · cases a <;> simp [eq_comm]

theorem execCmp2w32_next {s t : State} :
    execCmp2w32 s = .next t ↔ (s.alg = some .sha224 ∨ s.alg = some .sha256) ∧ t = s.compress s.src := by
  unfold execCmp2w32
  rcases s.alg with _ | a
  · simp
  · cases a <;> simp [eq_comm]

theorem execCmp2w64_next {s t : State} :
    execCmp2w64 s = .next t ↔ (s.alg = some .sha384 ∨ s.alg = some .sha512) ∧ t = s.compress s.src := by
  unfold execCmp2w64
  rcases s.alg with _ | a
  · simp
  · cases a <;> simp [eq_comm]

/-- Everything an instruction that completes can have done, at a value of `LEN_RESERVE`. -/
theorem execAt_next {lr : Config.LenReserve} {i : Instr} {s t : State} (h : execAt lr i s = .next t) :
    (∃ a, t = initContext a s)
      ∨ t = s.answer .ok
      ∨ (∃ a n, i = .update n ∧ s.phase = .ready ∧ s.alg = some a ∧ n ≠ 0 ∧ s.count.toNat + n < 2 ^ 64
          ∧ t = absorb (blockSize a) n s)
      ∨ (∃ a outlen, i = .finish outlen ∧ s.phase = .ready ∧ s.alg = some a
          ∧ t = finalize lr outlen s)
      ∨ (i.isHost = false ∧ (t = runPadF lr s ∨ t = runPadL s ∨ t = s.compress s.src
          ∨ t = runSer s ∨ ∃ w, t = s.expanded w)) := by
  cases i with
  | selectSha1 => exact .inl ⟨.sha1, by cases h; rfl⟩
  | selectSha224 => exact .inl ⟨.sha224, by cases h; rfl⟩
  | selectSha256 => exact .inl ⟨.sha256, by cases h; rfl⟩
  | selectSha384 => exact .inl ⟨.sha384, by cases h; rfl⟩
  | selectSha512 => exact .inl ⟨.sha512, by cases h; rfl⟩
  | init =>
    obtain ⟨-, a, -, rfl⟩ := execInit_next.mp h
    exact .inl ⟨a, rfl⟩
  | update n =>
    obtain ⟨hp, a, ha, ⟨-, rfl⟩ | ⟨hn, hc, rfl⟩⟩ := execUpdate_next.mp h
    · exact .inr (.inl rfl)
    · exact .inr (.inr (.inl ⟨a, n, rfl, hp, ha, hn, hc, rfl⟩))
  | finish outlen =>
    obtain ⟨hp, ⟨a, ha⟩, rfl⟩ := execFinishAt_next.mp h
    exact .inr (.inr (.inr (.inl ⟨a, outlen, rfl, hp, ha, rfl⟩)))
  | padf => exact .inr (.inr (.inr (.inr ⟨rfl, .inl (execPadfAt_next.mp h).2⟩)))
  | padl => exact .inr (.inr (.inr (.inr ⟨rfl, .inr (.inl (execPadl_next.mp h).2)⟩)))
  | cmp1 => exact .inr (.inr (.inr (.inr ⟨rfl, .inr (.inr (.inl (execCmp1_next.mp h).2))⟩)))
  | cmp2w32 => exact .inr (.inr (.inr (.inr ⟨rfl, .inr (.inr (.inl (execCmp2w32_next.mp h).2))⟩)))
  | cmp2w64 => exact .inr (.inr (.inr (.inr ⟨rfl, .inr (.inr (.inl (execCmp2w64_next.mp h).2))⟩)))
  | ser => exact .inr (.inr (.inr (.inr ⟨rfl, .inr (.inr (.inr (.inl (execSer_next.mp h).2)))⟩)))
  | sched1 => exact .inr (.inr (.inr (.inr ⟨rfl, .inr (.inr (.inr (.inr ⟨_, by cases h; rfl⟩)))⟩)))
  | sched2w32 => exact .inr (.inr (.inr (.inr ⟨rfl, .inr (.inr (.inr (.inr ⟨_, by cases h; rfl⟩)))⟩)))
  | sched2w64 => exact .inr (.inr (.inr (.inr ⟨rfl, .inr (.inr (.inr (.inr ⟨_, by cases h; rfl⟩)))⟩)))

/-- At the default value of the parameter the machine is that of `exec`. -/
theorem execAt_lenReserve (i : Instr) (s : State) : execAt lenReserve i s = exec i s := by
  cases i <;> rfl

/-- Everything an instruction that completes can have done. -/
theorem exec_next {i : Instr} {s t : State} (h : exec i s = .next t) :
    (∃ a, t = initContext a s)
      ∨ t = s.answer .ok
      ∨ (∃ a n, i = .update n ∧ s.phase = .ready ∧ s.alg = some a ∧ n ≠ 0 ∧ s.count.toNat + n < 2 ^ 64
          ∧ t = absorb (blockSize a) n s)
      ∨ (∃ a outlen, i = .finish outlen ∧ s.phase = .ready ∧ s.alg = some a
          ∧ t = finalize lenReserve outlen s)
      ∨ (i.isHost = false ∧ (t = runPadF lenReserve s ∨ t = runPadL s ∨ t = s.compress s.src
          ∨ t = runSer s ∨ ∃ w, t = s.expanded w)) :=
  execAt_next ((execAt_lenReserve i s).trans h)

/-- What the command port decodes is a command of the host. -/
theorem decodeHost_isHost {cw : CommandWord} {i : Instr} (h : decodeHost cw = some i) :
    i.isHost = true := by
  unfold decodeHost selectOfCode at h
  split at h
  · cases h
  repeat' split at h
  all_goals first | (cases h; rfl) | cases h

/-- Everything a step that goes on can have done, whatever runs the instructions. -/
theorem stepBy_next {run : Instr → State → Host.Outcome State Fault Refusal} {s t : State}
    (h : stepBy run s = .next t) :
    (s.pending = [] ∧ t = s)
      ∨ (∃ cw inp rest i, s.pending = .command cw inp :: rest ∧ decodeHost cw = some i
          ∧ run i ((s.waiting rest).latchInput inp) = .next t)
      ∨ (∃ cw src outlen rest i, s.pending = .micro cw src outlen :: rest ∧ decodeMicro cw = some i
          ∧ run i (((s.waiting rest).select src).latchOutlen outlen) = .next t)
      ∨ (∃ rest, s.pending = .reset :: rest ∧ t = hardwareReset (s.waiting rest))
      ∨ (∃ out rest, s.pending = .output out :: rest ∧ t = (s.waiting rest).presetOutput out) := by
  unfold stepBy at h
  rcases hp : s.pending with _ | ⟨e, rest⟩
  · rw [hp] at h
    exact .inl ⟨rfl, by simpa [idle] using h.symm⟩
  · rw [hp] at h
    rcases e with ⟨cw, inp⟩ | ⟨cw, src, outlen⟩ | _ | out
    · simp only [accept, acceptCommand] at h
      rcases hd : decodeHost cw with _ | i
      · simp [hd] at h
      · simp only [hd] at h
        exact .inr (.inl ⟨cw, inp, rest, i, rfl, hd, h⟩)
    · simp only [accept, acceptMicro] at h
      rcases hd : decodeMicro cw with _ | i
      · simp [hd] at h
      · simp only [hd] at h
        exact .inr (.inr (.inl ⟨cw, src, outlen, rest, i, rfl, hd, h⟩))
    · exact .inr (.inr (.inr (.inl ⟨rest, rfl, by simpa [accept] using h.symm⟩)))
    · exact .inr (.inr (.inr (.inr ⟨out, rest, rfl, by simpa [accept] using h.symm⟩)))

/-- Everything a step that goes on can have done. -/
theorem step_next {s t : State} (h : step s = .next t) :
    (s.pending = [] ∧ t = s)
      ∨ (∃ cw inp rest i, s.pending = .command cw inp :: rest ∧ decodeHost cw = some i
          ∧ exec i ((s.waiting rest).latchInput inp) = .next t)
      ∨ (∃ cw src outlen rest i, s.pending = .micro cw src outlen :: rest ∧ decodeMicro cw = some i
          ∧ exec i (((s.waiting rest).select src).latchOutlen outlen) = .next t)
      ∨ (∃ rest, s.pending = .reset :: rest ∧ t = hardwareReset (s.waiting rest))
      ∨ (∃ out rest, s.pending = .output out :: rest ∧ t = (s.waiting rest).presetOutput out) :=
  stepBy_next h

/-- The step at the default value of the parameter is `step`. -/
theorem stepAt_lenReserve (s : State) : stepAt lenReserve s = step s := by
  rw [stepAt, step, show execAt lenReserve = exec from funext fun i => funext (execAt_lenReserve i)]

end Sys2Proof.Machine
end

