-- ==== Sys2Proof/Laws/PerInstr.lean ====
section
/-! SUPPORT. A statement about every instruction as syntax, made one constructor at a time. -/

namespace Sys2Proof.Laws.OpcodeRow

/-- The rows of the port an instruction comes to. -/
def rowsOf (i : Instr) : List Sys2Proof.OpcodeRow := if i.isHost then hostRows else microRows

/-- The word of a well-formed instruction selects the row of its own mnemonic, in the table of its own port
(30_encoding.md R91). -/
def Statement (i : Instr) : Prop :=
  i.WellFormed → ∃ r ∈ rowsOf i, r.mnemonic = i.mnemonic ∧ r.selects (encode i) = true

/-- A row is selected by every word that has the row's `op` and `arg`, when the mask leaves `n` open. -/
theorem selects_open (op arg : BitVec 4) (n : BitVec 64) (mnemonic : String) (fixed : CommandWord)
    (h : fixed = commandWord op arg 0#64) :
    OpcodeRow.selects ⟨mnemonic, fixed, 0xff0000000000000000#72⟩ (commandWord op arg n) = true := by
  subst h
  have e : commandWord op arg n &&& 0xff0000000000000000#72 = commandWord op arg 0#64 := by
    apply BitVec.eq_of_getLsbD_eq
    intro i hi
    have hm : (0xff0000000000000000#72).getLsbD i = decide (64 ≤ i) := by
      revert i; decide
    simp only [BitVec.getLsbD_and, hm, commandWord, BitVec.getLsbD_append]
    by_cases h64 : i < 64
    · simp [h64, show ¬ 64 ≤ i by omega]
    · simp [h64, show 64 ≤ i by omega]
  simp [OpcodeRow.selects, e]

theorem selectSha1 : Statement .selectSha1 := by unfold Statement; decide
theorem selectSha224 : Statement .selectSha224 := by unfold Statement; decide
theorem selectSha256 : Statement .selectSha256 := by unfold Statement; decide
theorem selectSha384 : Statement .selectSha384 := by unfold Statement; decide
theorem selectSha512 : Statement .selectSha512 := by unfold Statement; decide
theorem init : Statement .init := by unfold Statement; decide

theorem update (n : Nat) : Statement (.update n) := fun _ =>
  ⟨⟨"UPDATE", 0x300000000000000000#72, 0xff0000000000000000#72⟩, by simp [rowsOf, Instr.isHost, hostRows],
    rfl, selects_open 0x3#4 0#4 _ _ _ (by decide)⟩

theorem finish (outlen : Nat) : Statement (.finish outlen) := fun _ =>
  ⟨⟨"FINISH", 0x400000000000000000#72, 0xff0000000000000000#72⟩, by simp [rowsOf, Instr.isHost, hostRows],
    rfl, selects_open 0x4#4 0#4 _ _ _ (by decide)⟩

theorem padf : Statement .padf := by unfold Statement; decide
theorem padl : Statement .padl := by unfold Statement; decide
theorem sched1 : Statement .sched1 := by unfold Statement; decide
theorem cmp1 : Statement .cmp1 := by unfold Statement; decide
theorem sched2w32 : Statement .sched2w32 := by unfold Statement; decide
theorem cmp2w32 : Statement .cmp2w32 := by unfold Statement; decide
theorem sched2w64 : Statement .sched2w64 := by unfold Statement; decide
theorem cmp2w64 : Statement .cmp2w64 := by unfold Statement; decide
theorem ser : Statement .ser := by unfold Statement; decide

end Sys2Proof.Laws.OpcodeRow
end

