-- ==== Sys2Proof/Tests/Slice0.lean ====
section
/-! SUPPORT. Tests: ill-formed terms that the check refuses; words written out from the encoding tables of the
spec; one step of each instruction against the vectors of 95_test_vectors.md (V<n>) and the examples of the
rules; and, for every statement with hypotheses, a state and operands that meet them. -/

namespace Sys2Proof.Tests

open Sys2Proof.Machine

/-! ## Helpers -/

/-- The state of an outcome; the reset state where there is none. -/
def nextOf : Host.Outcome State Fault Refusal → State
  | .next s => s
  | .fault _ => State.reset
  | .refused _ => State.reset

/-- The refusal of an outcome. -/
def refusalOf : Host.Outcome State Fault Refusal → Option Refusal
  | .next _ => none
  | .fault _ => none
  | .refused r => some r

/-- The `k` bytes of a number, most significant first. -/
def hexBytes (k n : Nat) : List Byte := (List.range k).map fun i => BitVec.ofNat 8 (n / 256 ^ (k - 1 - i))

/-- `n` times one byte. -/
def times (n : Nat) (b : Byte) : List Byte := List.replicate n b

/-- A context in phase READY for a variant, nothing absorbed. -/
def ready (a : Alg) : State := initContext a State.reset

/-- A context in phase READY with a given tail in `BUF` and a given `count`. -/
def holding (a : Alg) (count : Nat) (tail : List Byte) : State :=
  { ready a with
    count := BitVec.ofNat 64 count
    fill := tail.length
    buf := Memory.ofBytes tail }

/-- A context in phase READY with a whole block in `BUF`. -/
def withBlock (a : Alg) (block : List Byte) : State := { ready a with buf := Memory.ofBytes block }

/-- A state in which an input waits at the command. -/
def given (inp : List Byte) (s : State) : State := { s with inp := Memory.ofBytes inp }

/-- A state in which the host has preset `OUT`. -/
def preset (out : List Byte) (s : State) : State := { s with out := Memory.ofBytes out }

/-- A state in another phase. -/
def inPhase (p : Phase) (s : State) : State := { s with phase := p }

/-- A state with one event at the ports. -/
def facing (e : Event) (s : State) : State := { s with pending := [e] }

/-- The padded block of "abc" (V10, V16). -/
def abcBlock (size : Nat) : List Byte :=
  [0x61#8, 0x62#8, 0x63#8, 0x80#8] ++ times (size - 5) 0#8 ++ [0x18#8]

/-- Words `i` of a 32-bit schedule, for the given `i`. -/
def words32 (s : State) (is : List Nat) : List Word32 :=
  match s.sched with
  | .w32 ws => is.map fun i => ws.getD i 0#32
  | .w64 _ => []
  | .noValue => []

/-- Words `i` of a 64-bit schedule, for the given `i`. -/
def words64 (s : State) (is : List Nat) : List Word64 :=
  match s.sched with
  | .w64 ws => is.map fun i => ws.getD i 0#64
  | .w32 _ => []
  | .noValue => []

/-! ## Well-formedness: an operand that does not fit 64 bits (30_encoding.md R82) -/

theorem test_update_of_two_pow_64_is_ill_formed : (Instr.update (2 ^ 64)).wellFormed = false := by decide

theorem test_finish_of_two_pow_64_is_ill_formed : (Instr.finish (2 ^ 64)).wellFormed = false := by decide

theorem test_largest_operands_are_well_formed :
    (Instr.update (2 ^ 64 - 1)).wellFormed = true ∧ (Instr.finish (2 ^ 64 - 1)).wellFormed = true := by decide

/-! ## Decoding: words written out bit by bit from 30_encoding.md R80, R83, R84, R86 -/

theorem test_decode_select_sha1 :
    decodeHost (0b0001#4 ++ 0b0000#4 ++ 0#64) = some .selectSha1 := by decide

theorem test_decode_select_sha224 :
    decodeHost (0b0001#4 ++ 0b0001#4 ++ 0#64) = some .selectSha224 := by decide

theorem test_decode_select_sha256 :
    decodeHost (0b0001#4 ++ 0b0010#4 ++ 0#64) = some .selectSha256 := by decide

theorem test_decode_select_sha384 :
    decodeHost (0b0001#4 ++ 0b0011#4 ++ 0#64) = some .selectSha384 := by decide

theorem test_decode_select_sha512 :
    decodeHost (0b0001#4 ++ 0b0100#4 ++ 0#64) = some .selectSha512 := by decide

theorem test_decode_init : decodeHost (0b0010#4 ++ 0b0000#4 ++ 0#64) = some .init := by decide

theorem test_decode_update :
    decodeHost (0b0011#4 ++ 0b0000#4 ++ 3#64) = some (.update 3)
      ∧ decodeHost (0b0011#4 ++ 0b0000#4 ++ 0#64) = some (.update 0)
      ∧ decodeHost 0x30ffffffffffffffff#72 = some (.update (2 ^ 64 - 1)) := by decide

theorem test_decode_finish :
    decodeHost (0b0100#4 ++ 0b0000#4 ++ 20#64) = some (.finish 20)
      ∧ decodeHost 0x400000000000000000#72 = some (.finish 0) := by decide

theorem test_decode_padf : decodeMicro (0b1000#4 ++ 0b0000#4 ++ 0#64) = some .padf := by decide
theorem test_decode_padl : decodeMicro (0b1000#4 ++ 0b0001#4 ++ 0#64) = some .padl := by decide
theorem test_decode_sched1 : decodeMicro (0b1000#4 ++ 0b0010#4 ++ 0#64) = some .sched1 := by decide
theorem test_decode_cmp1 : decodeMicro (0b1000#4 ++ 0b0011#4 ++ 0#64) = some .cmp1 := by decide
theorem test_decode_sched2w32 : decodeMicro (0b1000#4 ++ 0b0100#4 ++ 0#64) = some .sched2w32 := by decide
theorem test_decode_cmp2w32 : decodeMicro (0b1000#4 ++ 0b0101#4 ++ 0#64) = some .cmp2w32 := by decide
theorem test_decode_sched2w64 : decodeMicro (0b1000#4 ++ 0b0110#4 ++ 0#64) = some .sched2w64 := by decide
theorem test_decode_cmp2w64 : decodeMicro (0b1000#4 ++ 0b0111#4 ++ 0#64) = some .cmp2w64 := by decide
theorem test_decode_ser : decodeMicro (0b1000#4 ++ 0b1000#4 ++ 0#64) = some .ser := by decide

/-- V5: every reserved word of its table, and the micro-operations and the unused indices. -/
theorem test_decode_reserved :
    decodeHost 0x150000000000000000#72 = none ∧ decodeHost 0x100000000000000001#72 = none
      ∧ decodeHost 0x210000000000000000#72 = none ∧ decodeHost 0x200000000000000001#72 = none
      ∧ decodeHost 0x310000000000000003#72 = none ∧ decodeHost 0x4f0000000000000014#72 = none
      ∧ decodeHost 0#72 = none ∧ decodeHost 0x500000000000000000#72 = none
      ∧ decodeHost 0x600000000000000000#72 = none ∧ decodeHost 0x700000000000000000#72 = none
      ∧ decodeHost 0x830000000000000000#72 = none ∧ decodeHost 0x900000000000000000#72 = none
      ∧ decodeHost 0xf00000000000000000#72 = none := by
  decide

theorem test_decode_micro_reserved :
    decodeMicro 0x890000000000000000#72 = none ∧ decodeMicro 0x8f0000000000000000#72 = none
      ∧ decodeMicro 0x800000000000000001#72 = none ∧ decodeMicro 0x200000000000000000#72 = none := by
  decide

/-- A number of the opcode table is the word itself; a number of more than 72 bits is no word. -/
theorem test_decode_table_word :
    decodeTableWord 72 0x300000000000000003 = some (.update 3)
      ∧ decodeTableWord 72 0x870000000000000000 = some .cmp2w64
      ∧ decodeTableWord 80 (2 ^ 72) = none := by decide

/-! ## Word arithmetic (V4 and 44_sha2_compression.md R193 to R195) -/

theorem test_addition_wraps :
    addW 0xffffffff#32 2#32 = 1#32 ∧ addW 0x80000000#32 0x80000000#32 = 0#32
      ∧ addW 0xffffffffffffffff#64 1#64 = 0#64 := by decide

theorem test_rotations :
    rotl 0x12345678#32 4 = 0x23456781#32 ∧ rotr 0x12345678#32 4 = 0x81234567#32
      ∧ rotl 0x0123456789abcdef#64 8 = 0x23456789abcdef01#64
      ∧ rotr 0x0123456789abcdef#64 8 = 0xef0123456789abcd#64 := by decide

theorem test_shift_and_bytes :
    shr 0x80000000#32 3 = 0x10000000#32
      ∧ beLoad 32 [0x61#8, 0x62#8, 0x63#8, 0x80#8] = 0x61626380#32
      ∧ beLoad 64 (hexBytes 8 0x0102030405060708) = 0x0102030405060708#64
      ∧ beStore 4 0xa9993e36#32 = [0xa9#8, 0x99#8, 0x3e#8, 0x36#8]
      ∧ lengthField 448 = hexBytes 8 0x1c0 := by decide

theorem test_sha1_round_functions :
    f1 0 0xefcdab89#32 0x98badcfe#32 0x10325476#32 = 0x98badcfe#32
      ∧ f1 20 0xefcdab89#32 0x98badcfe#32 0x10325476#32 = 0x67452301#32
      ∧ f1 40 0xefcdab89#32 0x98badcfe#32 0x10325476#32 = 0x98badcfe#32 := by decide

theorem test_sha2_functions :
    smallSigma width32.smallSigma0 0x61626380#32 = 0x940e90ef#32
      ∧ smallSigma width32.smallSigma1 0x18#32 = 0x000f0000#32
      ∧ bigSigma width32.bigSigma0 0x6a09e667#32 = 0xce20b47e#32
      ∧ bigSigma width32.bigSigma1 0x510e527f#32 = 0x3587272b#32
      ∧ smallSigma width64.smallSigma0 0x6162638000000000#64 = 0x3012976480000000#64
      ∧ smallSigma width64.smallSigma1 0x18#64 = 0x00030000000000c0#64
      ∧ bigSigma width64.bigSigma0 0x6a09e667f3bcc908#64 = 0x08c4db56aac80c2a#64
      ∧ bigSigma width64.bigSigma1 0x510e527fade682d1#64 = 0x9427e33bb5c9dbca#64
      ∧ ch 0x510e527f#32 0x9b05688c#32 0x1f83d9ab#32 = 0x1f85c98c#32
      ∧ maj 0x6a09e667#32 0xbb67ae85#32 0x3c6ef372#32 = 0x3a6fe667#32 := by decide

/-- 44_sha2_compression.md R197: the upper 32 bits of `K512[t]` are `K256[t]` for `t < 64`. -/
theorem test_constant_tables_agree :
    (k512.take 64).map (fun k => k.extractLsb' 32 32) = k256 ∧ k512.length = 80 ∧ k1.length = 4 := by
  decide +kernel

/-! ## SELECT and INIT (V6, 46_selector_facade.md R230 to R235) -/

/-- V6, from phase FAILED with a message half absorbed. -/
theorem test_select_sha1_constructs :
    (nextOf (exec .selectSha1 (inPhase .failed (holding .sha512 200 (times 72 0xaa#8))))).algH
        = .sha1 ⟨0x67452301#32, 0xefcdab89#32, 0x98badcfe#32, 0x10325476#32, 0xc3d2e1f0#32⟩ := by
  decide

/-- P5, step 1. -/
theorem test_select_sha224_constructs :
    (nextOf (exec .selectSha224 State.reset)).algH
        = .sha224 ⟨0xc1059ed8#32, 0x367cd507#32, 0x3070dd17#32, 0xf70e5939#32, 0xffc00b31#32,
            0x68581511#32, 0x64f98fa7#32, 0xbefa4fa4#32⟩ := by decide

/-- R230, the example. -/
theorem test_select_sha256_constructs :
    (nextOf (exec .selectSha256 State.reset)).algH
        = .sha256 ⟨0x6a09e667#32, 0xbb67ae85#32, 0x3c6ef372#32, 0xa54ff53a#32, 0x510e527f#32,
            0x9b05688c#32, 0x1f83d9ab#32, 0x5be0cd19#32⟩ := by decide

/-- R234. -/
theorem test_select_sha384_constructs :
    (nextOf (exec .selectSha384 State.reset)).algH
        = .sha384 ⟨0xcbbb9d5dc1059ed8#64, 0x629a292a367cd507#64, 0x9159015a3070dd17#64,
            0x152fecd8f70e5939#64, 0x67332667ffc00b31#64, 0x8eb44a8768581511#64,
            0xdb0c2e0d64f98fa7#64, 0x47b5481dbefa4fa4#64⟩ := by decide

/-- V6. -/
theorem test_select_sha512_constructs :
    (nextOf (exec .selectSha512 State.reset)).algH
        = .sha512 ⟨0x6a09e667f3bcc908#64, 0xbb67ae8584caa73b#64, 0x3c6ef372fe94f82b#64,
            0xa54ff53a5f1d36f1#64, 0x510e527fade682d1#64, 0x9b05688c2b3e6c1f#64,
            0x1f83d9abfb41bd6b#64, 0x5be0cd19137e2179#64⟩ := by decide

/-- P3, step 4: a finished context is as after `select sha256`. -/
theorem test_init_after_finish :
    let s := { inPhase .done (holding .sha256 11 (times 11 0x68#8)) with
      algH := .sha256 ⟨1#32, 2#32, 3#32, 4#32, 5#32, 6#32, 7#32, 8#32⟩ }
    (nextOf (exec .init s)).algH = (ready .sha256).algH ∧ (nextOf (exec .init s)).count = 0#64
      ∧ (nextOf (exec .init s)).fill = 0 ∧ (nextOf (exec .init s)).buf = []
      ∧ (nextOf (exec .init s)).phase = .ready := by decide

/-! ## UPDATE (V7) -/

/-- V7, row 3: `fill + n` = 63. -/
theorem test_update_without_full_block :
    let t := nextOf (exec (.update 53) (given (times 53 0x62#8) (holding .sha256 10 (times 10 0x61#8))))
    t.count = 63#64 ∧ t.fill = 63 ∧ t.algH = (ready .sha256).algH
      ∧ t.buf = Memory.ofBytes (times 10 0x61#8 ++ times 53 0x62#8) := by decide +kernel

/-- V7, row 5: one block through the buffer, one direct, a remainder of 2. -/
theorem test_update_over_two_blocks :
    let s := given (times 130 0x64#8) { holding .sha256 64 [] with
      algH := .sha256 ⟨0xb84fc0cc#32, 0xdc0a9565#32, 0xb8ca6dab#32, 0xa89d1139#32, 0x5a634f7f#32,
        0xf406c2b0#32, 0x306b4795#32, 0x2159b2f6#32⟩ }
    let t := nextOf (exec (.update 130) s)
    t.count = 194#64 ∧ t.fill = 2 ∧ t.buf = [(0, 0x64#8), (1, 0x64#8)]
      ∧ t.algH = .sha256 ⟨0x054a991a#32, 0x2feb93bd#32, 0x0a310581#32, 0x05d23781#32, 0xa96173f9#32,
          0x55d98996#32, 0x8aa84a07#32, 0xdcde1cdc#32⟩ := by decide +kernel

/-! ## FINISH (V9, P5) -/

/-- P5, step 3: SHA-224, one padded block, `outlen` above the digest size. -/
theorem test_finish_sha224_long_output :
    let s := preset (times 32 0xee#8) { holding .sha224 70 (hexBytes 6 0x707172737475) with
      algH := .sha224 ⟨0xf926db47#32, 0xa4df68d3#32, 0x9e7231c5#32, 0x0ba96e5c#32, 0x3907fb12#32,
        0xcdd1cc9a#32, 0x62e6bf3a#32, 0x7333da13#32⟩ }
    let t := nextOf (exec (.finish 32) s)
    t.out.readBytes 0 32
        = hexBytes 28 0x69c811e999d01f525eaee3882769c30d5fc366694da0ed5e5b3864db ++ times 4 0xee#8
      ∧ t.phase = .done ∧ t.res = .ok := by decide +kernel

/-- V9 (a), SHA-512: the largest message that can be finished, two padded blocks. -/
theorem test_finish_at_the_overflow_boundary :
    let t := nextOf (exec (.finish 64) (holding .sha512 (2 ^ 61 - 1) (times 127 0#8)))
    t.out.readBytes 0 64
        = hexBytes 64 0x0d089bb5595d4688a5fd331c6a4cd3639c28b5b5d399095d6a2338723166475ec31ecc3589bb5b07108a9db560f5870179c59449a976e06a0a2c45b2f8b30b94
      ∧ t.phase = .done ∧ t.res = .ok := by decide +kernel

/-- V21 and P4, step 4: SHA-512 of 119 bytes with `LEN_RESERVE(128)` = 16, the standard's digest. -/
theorem test_finish_with_len_reserve_16 :
    let s := holding .sha512 119 (times 119 0x61#8)
    let lr : Config.LenReserve := fun b => if b = 128 then 16 else 8
    (nextOf (execAt lr (.finish 64) s)).out.readBytes 0 64
      = hexBytes 32 0x130396a75cb483f2eee8c56d8a668bb3d2641f5243212c0bee2bd33da096ad9e
        ++ hexBytes 32 0xb8179fe18f9eaacf76e09fae9de4c3f14ba13341e345be05bf76c182cc3468cb := by
  decide +kernel

/-! ## PADF and PADL (V8) -/

/-- V8, B = 128, L = 112: one block, where the standard uses two. -/
theorem test_padf_fits :
    let t := nextOf (exec .padf (holding .sha512 112 (times 112 0x61#8)))
    t.buf.readBytes 0 128 = times 112 0x61#8 ++ 0x80#8 :: times 7 0#8 ++ hexBytes 8 0x380
      ∧ t.padReport = .done := by decide +kernel

/-- V8, B = 64, L = 56: two blocks. -/
theorem test_padf_spills :
    let t := nextOf (exec .padf (holding .sha1 56 (times 56 0x61#8)))
    t.buf.readBytes 0 64 = times 56 0x61#8 ++ 0x80#8 :: times 7 0#8
      ∧ t.padReport = .secondBlockNeeded := by decide +kernel

/-- V8, B = 64, L = 56, block 2. -/
theorem test_padl_length_field :
    let t := nextOf (exec .padl (holding .sha1 56 []))
    t.buf.readBytes 0 64 = times 56 0#8 ++ hexBytes 8 0x1c0 ∧ t.padReport = .done := by decide +kernel

/-! ## SCHED1 and CMP1 (V10, V12) -/

theorem test_sched1_abc :
    words32 (nextOf (exec .sched1 (withBlock .sha1 (abcBlock 64)))) [0, 1, 15, 16, 17, 18, 19, 79]
      = [0x61626380#32, 0#32, 0x18#32, 0xc2c4c700#32, 0#32, 0x30#32, 0x85898e01#32, 0x822e0879#32] := by
  decide +kernel

theorem test_cmp1_abc :
    (nextOf (exec .cmp1 (withBlock .sha1 (abcBlock 64)))).algH
      = .sha1 ⟨0xa9993e36#32, 0x4706816a#32, 0xba3e2571#32, 0x7850c26c#32, 0x9cd0d89d#32⟩ := by
  decide +kernel

/-- V11, the working variables after round 79. -/
theorem test_cmp1_working_variables :
    (nextOf (exec .cmp1 (withBlock .sha1 (abcBlock 64)))).work
      = .vars5 ⟨0x42541b35#32, 0x5738d5e1#32, 0x21834873#32, 0x681e6df6#32, 0xd8fdf6ad#32⟩ := by
  decide +kernel

/-! ## The SHA-2 engines (V13 to V18) -/

theorem test_sched2w32_abc :
    words32 (nextOf (exec .sched2w32 (withBlock .sha256 (abcBlock 64)))) [0, 15, 16, 17, 18, 63]
      = [0x61626380#32, 0x18#32, 0x61626380#32, 0x000f0000#32, 0x7da86405#32, 0x12b1edeb#32] := by
  decide +kernel

theorem test_cmp2w32_sha256_abc :
    (nextOf (exec .cmp2w32 (withBlock .sha256 (abcBlock 64)))).algH
      = .sha256 ⟨0xba7816bf#32, 0x8f01cfea#32, 0x414140de#32, 0x5dae2223#32, 0xb00361a3#32,
          0x96177a9c#32, 0xb410ff61#32, 0xf20015ad#32⟩ := by decide +kernel

theorem test_cmp2w32_sha224_abc :
    (nextOf (exec .cmp2w32 (withBlock .sha224 (abcBlock 64)))).algH
      = .sha224 ⟨0x23097d22#32, 0x3405d822#32, 0x8642a477#32, 0xbda255b3#32, 0x2aadbce4#32,
          0xbda0b3f7#32, 0xe36c9da7#32, 0xd2da082d#32⟩ := by decide +kernel

theorem test_sched2w64_abc :
    words64 (nextOf (exec .sched2w64 (withBlock .sha512 (abcBlock 128)))) [0, 15, 16, 17, 18, 79]
      = [0x6162638000000000#64, 0x18#64, 0x6162638000000000#64, 0x00030000000000c0#64,
         0x0a9699a24c700003#64, 0x92aeeed1a7bcf7d2#64] := by decide +kernel

theorem test_cmp2w64_sha512_abc :
    (nextOf (exec .cmp2w64 (withBlock .sha512 (abcBlock 128)))).algH
      = .sha512 ⟨0xddaf35a193617aba#64, 0xcc417349ae204131#64, 0x12e6fa4e89a97ea2#64,
          0x0a9eeee64b55d39a#64, 0x2192992a274fc1a8#64, 0x36ba3c23a3feebbd#64, 0x454d4423643ce80e#64,
          0x2a9ac94fa54ca49f#64⟩ := by decide +kernel

/-- V18, the all-zero block, taken straight from `IN` at an odd offset. -/
theorem test_cmp2w64_sha384_zero_block_from_input :
    (nextOf (exec .cmp2w64 { given [0x11#8] (ready .sha384) with src := .inp 1 })).algH
      = .sha384 ⟨0x443d3f698fb0cf23#64, 0x80a591795cd757ae#64, 0x4a9600972c395335#64,
          0x98e763d795c489f7#64, 0xf765ea4b8193f748#64, 0x450e49ec00bc838c#64, 0x871cc1d60f1e68c5#64,
          0x943bbf4c8ea94259#64⟩ := by decide +kernel

/-! ## SER (V28) -/

theorem test_ser_cuts_a_word :
    let s := { preset (times 12 0x55#8) (ready .sha384) with
      algH := .sha384 ⟨0xcb00753f45a35e8b#64, 0xb5a03d699ac65007#64, 0#64, 0#64, 0#64, 0#64, 0#64, 0#64⟩
      outlen := 11 }
    (nextOf (exec .ser s)).out.readBytes 0 12 = hexBytes 11 0xcb00753f45a35e8bb5a03d ++ [0x55#8] := by
  decide +kernel

theorem test_ser_drops_the_last_word_of_sha224 :
    let s := { preset (times 32 0x55#8) (ready .sha224) with
      algH := .sha224 ⟨0x23097d22#32, 0x3405d822#32, 0x8642a477#32, 0xbda255b3#32, 0x2aadbce4#32,
          0xbda0b3f7#32, 0xe36c9da7#32, 0xd2da082d#32⟩
      outlen := 32 }
    (nextOf (exec .ser s)).out.readBytes 0 32
      = hexBytes 28 0x23097d223405d8228642a477bda255b32aadbce4bda0b3f7e36c9da7 ++ times 4 0x55#8 := by
  decide +kernel

/-! ## Refusals (V30) and the step -/

theorem test_refusals :
    refusalOf (exec .init State.reset) = some .initBeforeSelect
      ∧ refusalOf (exec (.update 3) State.reset) = some .useBeforeInit
      ∧ refusalOf (exec (.finish 20) State.reset) = some .useBeforeInit
      ∧ refusalOf (exec (.update 0) (inPhase .done (ready .sha1))) = some .useAfterFinish
      ∧ refusalOf (exec (.finish 20) (inPhase .done (ready .sha1))) = some .useAfterFinish
      ∧ refusalOf (exec (.update 1) (inPhase .failed (ready .sha1))) = some .useAfterFailure
      ∧ refusalOf (exec (.update 1) (holding .sha1 (2 ^ 64 - 1) [])) = some .countOverflow
      ∧ refusalOf (exec (.update (2 ^ 64 - 1)) (holding .sha1 1 [0x61#8])) = some .countOverflow := by
  decide

/-- V5, V30: reserved words on the command port. -/
theorem test_step_refuses_reserved_words :
    refusalOf (step (facing (.command 0#72 []) (ready .sha1))) = some .reservedWord
      ∧ refusalOf (step (facing (.command 0x150000000000000000#72 []) State.reset)) = some .reservedWord
      ∧ refusalOf (step (facing (.command 0x830000000000000000#72 []) (ready .sha1))) = some .reservedWord := by
  decide

/-- P1, step 2, from the command word and its data bytes. -/
theorem test_step_update_abc :
    let t := nextOf (step (facing (.command 0x300000000000000003#72 (Memory.ofBytes [0x61#8, 0x62#8, 0x63#8]))
      (ready .sha1)))
    t.count = 3#64 ∧ t.fill = 3 ∧ t.buf = [(0, 0x61#8), (1, 0x62#8), (2, 0x63#8)] := by decide

/-- `withFetchWord` places a command for the command port and a micro-operation for the sequencer's. -/
theorem test_with_fetch_word :
    (nextOf (step (State.reset.withFetchWord 72 0x140000000000000000))).alg = some .sha512
      ∧ (nextOf (step ((ready .sha1).withFetchWord 72 0x810000000000000000))).padReport = .done := by
  decide +kernel

/-- 30_encoding.md R88, R89. -/
theorem test_listing :
    lineOf [0x61#8, 0x0b#8] (.update 2) = some "update 2 610b"
      ∧ lineOf [] (.update 0) = some "update 0 \"\"" ∧ lineOf [] (.finish 20) = some "finish 20"
      ∧ resultText .err = "-> ERR" := by decide +kernel

/-! ## Witnesses: states and operands that meet the hypotheses of each statement together -/

/-- The context after a message of `n` zero bytes, built directly. -/
def afterZeros (a : Alg) (n : Nat) : State :=
  { ready a with
    algH := compressAll (AlgH.initial a) (blocksOf (blockSize a) (zeroBytes n))
    count := BitVec.ofNat 64 n
    fill := n % blockSize a }

theorem afterZeros_alg (a : Alg) (n : Nat) : (afterZeros a n).alg = some a := by
  simp [afterZeros, State.alg]

theorem afterZeros_bufSize (a : Alg) (n : Nat) : (afterZeros a n).algH.bufSize = blockSize a := by
  have h : (afterZeros a n).algH.alg = some a := afterZeros_alg a n
  simp [AlgH.bufSize, h]

theorem blockSize_pos (a : Alg) : 0 < blockSize a := by cases a <;> decide

/-- The context after `n` zero bytes has absorbed them. -/
theorem afterZeros_absorbed (a : Alg) (n : Nat) (h : n < 2 ^ 64) :
    Absorbed a (zeroBytes n) (afterZeros a n) where
  phase := rfl
  chaining := rfl
  count := by
    rw [length_zeroBytes]
    exact (BitVec.toNat_ofNat n 64).trans (Nat.mod_eq_of_lt h)
  fill := by simp [afterZeros, length_zeroBytes]
  tail := by
    have hd := Nat.div_add_mod' n (blockSize a)
    have hr : ∀ k b, (Memory.zeros).readBytes b k = List.replicate k 0#8 := by
      intro k
      induction k with
      | zero => intro b; rfl
      | succ k ih => intro b; rw [Memory.readBytes, ih, Memory.read_zeros, List.replicate_succ]
    change Memory.zeros.readBytes 0 (n % blockSize a) = _
    rw [hr, tailOf, length_zeroBytes, zeroBytes, List.drop_replicate]
    congr 1
    omega
  zero := fun _ _ => rfl

theorem afterZeros_inv (a : Alg) (n : Nat) (h : n < 2 ^ 64) : Inv (afterZeros a n) where
  memory := ⟨Memory.wf_zeros, Memory.wf_zeros, Memory.wf_zeros, by simp [afterZeros, ready, initContext, State.reset]⟩
  context :=
    { selected := fun _ => by simp [afterZeros_alg]
      inside := Memory.below_zeros _
      fillBelow := fun _ => by
        rw [afterZeros_bufSize]
        exact Nat.mod_lt _ (blockSize_pos a)
      tailZero := fun _ _ _ => rfl
      fillIsCount := fun _ => by
        rw [afterZeros_bufSize, (afterZeros_absorbed a n h).count, length_zeroBytes]
        rfl
      resultOk := fun _ => rfl
      resultErr := fun hp => by cases hp }
  report := rfl
  source := rfl
  operand := rfl
  outside := by simp [afterZeros, ready, initContext, State.reset]

/-- The two values of `LEN_RESERVE` that the spec allows (92_eei_decisions.md D14). -/
def reserve8 : Config.LenReserve := fun _ => 8

def reserve16 : Config.LenReserve := fun b => if b = 128 then 16 else 8

theorem witness_PaddedMessageFillsBlocks : reserve8.Legal ∧ reserve16.Legal := by decide

theorem witness_LenReserveMattersOnlyFrom112To119 :
    reserve8.Legal ∧ reserve16.Legal ∧ reserve8 128 = 8 ∧ reserve16 128 = 16 := by decide

theorem witness_DecodeEncodeRoundTrip :
    (Instr.update (2 ^ 64 - 1)).WellFormed ∧ (Instr.update (2 ^ 64 - 1)).isHost = true
      ∧ Instr.ser.WellFormed ∧ Instr.ser.isHost = false := by decide

theorem witness_DecodedWordIsItsEncoding :
    decodeWord 0x40ffffffffffffffff#72 = some (.finish (2 ^ 64 - 1))
      ∧ decodeWord 0x880000000000000000#72 = some .ser := by decide

theorem witness_DecodersFollowOpcodeTable :
    decodeHost 0x140000000000000000#72 = some .selectSha512
      ∧ (⟨"UPDATE", 0x300000000000000000#72, 0xff0000000000000000#72⟩ : OpcodeRow) ∈ hostRows
      ∧ OpcodeRow.selects ⟨"UPDATE", 0x300000000000000000#72, 0xff0000000000000000#72⟩
          0x30ffffffffffffffff#72 = true
      ∧ decodeMicro 0x880000000000000000#72 = some .ser
      ∧ (⟨"SER", 0x880000000000000000#72, 0xffffffffffffffffff#72⟩ : OpcodeRow) ∈ microRows
      ∧ OpcodeRow.selects ⟨"SER", 0x880000000000000000#72, 0xffffffffffffffffff#72⟩
          0x880000000000000000#72 = true := by decide

/-- One reserved word for each case of R85, at the boundary of the case, and the fields they are split into. -/
theorem witness_ReservedWordsAreRefused :
    (∀ op arg n : Nat, (op, arg, n) ∈ [(0, 0, 0), (5, 0, 0), (7, 15, 1), (9, 0, 0), (15, 15, 2 ^ 64 - 1),
        (1, 5, 0), (1, 15, 0), (1, 0, 1), (1, 4, 2 ^ 64 - 1), (2, 1, 0), (2, 0, 1), (3, 1, 3), (4, 15, 20),
        (8, 0, 0), (8, 8, 0)] →
      let w := op * 2 ^ 68 + arg * 2 ^ 64 + n
      op = w / 2 ^ 68 ∧ arg = w / 2 ^ 64 % 16 ∧ n = w % 2 ^ 64)
      ∧ decodeHost 0x090000000000000000#72 = none ∧ decodeHost 0x900000000000000000#72 = none
      ∧ decodeHost 0x310000000000000003#72 = none
      ∧ (facing (.command 0x310000000000000003#72 []) (ready .sha1)).pending
          = .command 0x310000000000000003#72 [] :: [] := by
  refine ⟨?_, by decide, by decide, by decide, by decide⟩
  intro op arg n h
  simp only [List.mem_cons, Prod.mk.injEq, List.not_mem_nil, or_false] at h
  omega

theorem witness_StepRunsDecodedInstruction :
    (facing (.command 0x300000000000000003#72 []) (ready .sha1)).pending
        = .command 0x300000000000000003#72 [] :: []
      ∧ decodeHost 0x300000000000000003#72 = some (.update 3)
      ∧ (facing (.micro 0x830000000000000000#72 (.inp 1) 20) (ready .sha1)).pending
        = .micro 0x830000000000000000#72 (.inp 1) 20 :: []
      ∧ decodeMicro 0x830000000000000000#72 = some .cmp1
      ∧ (facing .reset (ready .sha1)).pending = .reset :: []
      ∧ (facing (.output [(0, 1#8)]) (ready .sha1)).pending = .output [(0, 1#8)] :: []
      ∧ (ready .sha1).pending = [] := by decide

theorem witness_PlacedWordRunsItsInstruction :
    (Instr.finish (2 ^ 64 - 1)).WellFormed ∧ Instr.padf.WellFormed := by decide

/-- A state for each clause of the statement; the largest `n` that `count` allows. -/
theorem witness_LegalPhases :
    State.reset.phase = .unsel
      ∧ ((inPhase .done (ready .sha1)).phase ≠ .unsel ∧ (inPhase .done (ready .sha1)).alg ≠ none)
      ∧ (inPhase .done (ready .sha1)).phase = .done ∧ (inPhase .failed (ready .sha1)).phase = .failed
      ∧ ((holding .sha1 1 [0#8]).phase = .ready ∧ (holding .sha1 1 [0#8]).alg ≠ none
          ∧ (holding .sha1 1 [0#8]).count.toNat + (2 ^ 64 - 2) < 2 ^ 64) := by decide

/-- A state with no variant, in each phase a clause asks for, and a state of another engine for each. -/
theorem witness_StopsWithoutTheConfiguration :
    State.reset.alg = none
      ∧ ((inPhase .done State.reset).alg = none ∧ (inPhase .done State.reset).phase ≠ .unsel)
      ∧ ((inPhase .ready State.reset).alg = none ∧ (inPhase .ready State.reset).phase = .ready)
      ∧ (ready .sha224).alg ≠ some .sha1
      ∧ ((ready .sha1).alg ≠ some .sha224 ∧ (ready .sha1).alg ≠ some .sha256)
      ∧ ((ready .sha256).alg ≠ some .sha384 ∧ (ready .sha256).alg ≠ some .sha512) := by decide

theorem witness_InitResetsContext :
    (inPhase .failed (holding .sha384 200 (times 72 1#8))).phase ≠ .unsel
      ∧ (inPhase .failed (holding .sha384 200 (times 72 1#8))).alg = some .sha384 := by decide

theorem witness_InitForgetsThePast :
    let s := inPhase .done (holding .sha1 3 [1#8, 2#8, 3#8])
    ((.init = Instr.init ∧ s.alg = some .sha1) ∨ Instr.init = selectInstr .sha1)
      ∧ Instr.selectSha1 = selectInstr .sha1
      ∧ exec .init s = .next (initContext .sha1 s)
      ∧ exec .selectSha1 State.reset = .next (initContext .sha1 State.reset) :=
  ⟨.inl ⟨rfl, rfl⟩, rfl, rfl, rfl⟩

theorem witness_EmptyUpdateChangesNothing :
    (ready .sha512).phase = .ready ∧ (ready .sha512).alg ≠ none := by decide

/-- `count + n` is `2^64` exactly. -/
theorem witness_CountOverflowIsRefused :
    (holding .sha1 1 [0#8]).phase = .ready ∧ (holding .sha1 1 [0#8]).alg ≠ none
      ∧ 2 ^ 64 ≤ (holding .sha1 1 [0#8]).count.toNat + (2 ^ 64 - 1) := by decide

/-- `fill + n` is `B - 1`. -/
theorem witness_UpdateWithoutFullBlock :
    let s := holding .sha256 (2 ^ 64 - 2) (times 62 0x61#8)
    s.phase = .ready ∧ s.alg = some .sha256 ∧ s.buf.wf ∧ 0 < 1 ∧ s.fill + 1 < blockSize .sha256
      ∧ s.count.toNat + 1 < 2 ^ 64 := by decide +kernel

/-- `fill + n` is `B`. -/
theorem witness_UpdateCompressesWholeBlocks :
    let s := holding .sha512 (2 ^ 64 - 2) (times 127 0x61#8)
    s.phase = .ready ∧ s.alg = some .sha512 ∧ s.buf.wf ∧ s.fill < blockSize .sha512
      ∧ blockSize .sha512 ≤ s.fill + 1 ∧ s.count.toNat + 1 < 2 ^ 64 := by decide +kernel

theorem witness_UpdateNeverFails :
    exec (.update 0) (ready .sha1) = .next ((ready .sha1).answer .ok) := rfl

/-- The two updates reach `2^64 - 1` bytes. -/
theorem witness_ChunkingInvariance :
    Inv (afterZeros .sha256 (2 ^ 64 - 4)) ∧ (afterZeros .sha256 (2 ^ 64 - 4)).phase = .ready
      ∧ (afterZeros .sha256 (2 ^ 64 - 4)).count.toNat + [1#8].length + [2#8, 3#8].length < 2 ^ 64 :=
  ⟨afterZeros_inv _ _ (by decide), rfl, by
    rw [(afterZeros_absorbed .sha256 (2 ^ 64 - 4) (by decide)).count, length_zeroBytes]; decide⟩

theorem witness_SelectAbsorbsNothing :
    exec (selectInstr .sha384) State.reset = .next (initContext .sha384 State.reset)
      ∧ (ready .sha384).alg = some .sha384
      ∧ exec .init (ready .sha384) = .next (initContext .sha384 (ready .sha384)) := ⟨rfl, rfl, rfl⟩

theorem witness_UpdateAbsorbsItsInput :
    Absorbed .sha512 (zeroBytes (2 ^ 64 - 2)) (afterZeros .sha512 (2 ^ 64 - 2))
      ∧ (afterZeros .sha512 (2 ^ 64 - 2)).buf.wf
      ∧ (afterZeros .sha512 (2 ^ 64 - 2)).count.toNat + 1 < 2 ^ 64 :=
  ⟨afterZeros_absorbed _ _ (by decide), Memory.wf_zeros, by
    rw [(afterZeros_absorbed .sha512 (2 ^ 64 - 2) (by decide)).count, length_zeroBytes]; decide⟩

/-- The largest message that can be finished. -/
theorem witness_FinishEmitsDigestOfMessage :
    Absorbed .sha1 (zeroBytes (2 ^ 61 - 1)) (afterZeros .sha1 (2 ^ 61 - 1))
      ∧ (afterZeros .sha1 (2 ^ 61 - 1)).buf.wf ∧ (afterZeros .sha1 (2 ^ 61 - 1)).out.wf
      ∧ (zeroBytes (2 ^ 61 - 1)).length < 2 ^ 61 :=
  ⟨afterZeros_absorbed _ _ (by decide), Memory.wf_zeros, Memory.wf_zeros, by
    rw [length_zeroBytes]; decide⟩

/-- A length at which the two values of the parameter part. -/
theorem witness_DigestForEveryLenReserve :
    reserve16.Legal
      ∧ Absorbed .sha512 (zeroBytes 119) (afterZeros .sha512 119)
      ∧ (afterZeros .sha512 119).buf.wf ∧ (afterZeros .sha512 119).out.wf
      ∧ (zeroBytes 119).length < 2 ^ 61 :=
  ⟨by decide, afterZeros_absorbed _ _ (by decide), Memory.wf_zeros, Memory.wf_zeros, by
    rw [length_zeroBytes]; decide⟩

/-- The first `count` that fails and the last that does not. -/
theorem witness_FinishFailsExactlyOnOverflow :
    ((holding .sha256 (2 ^ 61) []).phase = .ready ∧ (holding .sha256 (2 ^ 61) []).alg = some .sha256
        ∧ 2 ^ 61 ≤ (holding .sha256 (2 ^ 61) []).count.toNat)
      ∧ ¬ 2 ^ 61 ≤ (holding .sha256 (2 ^ 61 - 1) []).count.toNat := by decide

theorem witness_FinishWritesTheDigest :
    let s := holding .sha384 (2 ^ 61 - 1) []
    s.phase = .ready ∧ s.alg = some .sha384 ∧ s.out.wf ∧ s.count.toNat < 2 ^ 61 := by decide

/-- Both clauses at the boundary, for both block sizes: `off = B - 9` and `off = B - 8`. -/
theorem witness_FinishPadsInOneOrTwoBlocks :
    (∀ c ∈ [55, 56], (holding .sha1 c []).phase = .ready ∧ (holding .sha1 c []).alg = some .sha1
        ∧ (holding .sha1 c []).buf.wf ∧ (holding .sha1 c []).count.toNat < 2 ^ 61)
      ∧ (∀ c ∈ [119, 120], (holding .sha512 c []).phase = .ready ∧ (holding .sha512 c []).alg = some .sha512
        ∧ (holding .sha512 c []).buf.wf ∧ (holding .sha512 c []).count.toNat < 2 ^ 61)
      ∧ 55 % blockSize .sha1 ≤ blockSize .sha1 - 9 ∧ blockSize .sha1 - 9 < 56 % blockSize .sha1
      ∧ 119 % blockSize .sha512 ≤ blockSize .sha512 - 9
      ∧ blockSize .sha512 - 9 < 120 % blockSize .sha512 := by decide

/-- The two reports of `PADF` that let `FINISH` go on. -/
theorem witness_FinishIsItsMicroOperations :
    ((holding .sha1 55 []).phase = .ready ∧ (holding .sha1 55 []).alg = some .sha1
        ∧ (holding .sha1 55 []).count.toNat < 2 ^ 61
        ∧ (nextOf (exec .padf (holding .sha1 55 []))).padReport = .done)
      ∧ (holding .sha1 56 []).phase = .ready ∧ (holding .sha1 56 []).alg = some .sha1
        ∧ (holding .sha1 56 []).count.toNat < 2 ^ 61
        ∧ (nextOf (exec .padf (holding .sha1 56 []))).padReport = .secondBlockNeeded := by decide +kernel

/-- The three clauses at their boundaries: `count = 2^61`, `off = B - 9`, `off = B - 8`. -/
theorem witness_PadfWritesMarkerAndLength :
    ((holding .sha256 (2 ^ 61) []).alg = some .sha256 ∧ (holding .sha256 (2 ^ 61) []).buf.wf
        ∧ 2 ^ 61 ≤ (holding .sha256 (2 ^ 61) []).count.toNat)
      ∧ ((holding .sha384 119 []).alg = some .sha384 ∧ (holding .sha384 119 []).buf.wf
        ∧ (holding .sha384 119 []).count.toNat < 2 ^ 61 ∧ 119 % blockSize .sha384 ≤ blockSize .sha384 - 9)
      ∧ ((holding .sha384 120 []).alg = some .sha384 ∧ (holding .sha384 120 []).buf.wf
        ∧ (holding .sha384 120 []).count.toNat < 2 ^ 61
        ∧ blockSize .sha384 - 9 < 120 % blockSize .sha384) := by decide

/-- The last `count` whose bit length 64 bits hold, and the first whose they do not. -/
theorem witness_PadlWritesLengthField :
    let s := holding .sha224 (2 ^ 61 - 1) []
    let u := holding .sha224 (2 ^ 61) []
    s.alg = some .sha224 ∧ s.buf.wf ∧ s.count.toNat < 2 ^ 61
      ∧ u.alg = some .sha224 ∧ u.buf.wf ∧ ¬ u.count.toNat < 2 ^ 61 := by decide

/-- Both clauses at their boundary, for both values of the parameter. -/
theorem witness_PadfForEveryLenReserve :
    (∀ c ∈ [111, 112, 119, 120], (holding .sha512 c []).alg = some .sha512 ∧ (holding .sha512 c []).buf.wf
        ∧ (holding .sha512 c []).count.toNat < 2 ^ 61)
      ∧ reserve8.Legal ∧ reserve8 128 ≤ 128 - (119 % 128 + 1) ∧ 128 - (120 % 128 + 1) < reserve8 128
      ∧ reserve16.Legal ∧ reserve16 128 ≤ 128 - (111 % 128 + 1)
      ∧ 128 - (112 % 128 + 1) < reserve16 128 := by decide

theorem witness_ParameterTouchesPaddingAlone :
    (∀ n, Instr.padl ≠ .finish n) ∧ Instr.padl ≠ .padf := ⟨fun _ => Instr.noConfusion, by decide⟩

theorem witness_PaddingRejectsOtherBlockSizes :
    (65 ≠ 64 ∧ 65 ≠ 128) ∧ (127 ≠ 64 ∧ 127 ≠ 128) ∧ (0 ≠ 64 ∧ 0 ≠ 128) := by decide

theorem witness_AdditionWrapsAndRotationsTurn : 0 < 31 ∧ 31 < 32 ∧ 0 < 1 ∧ 1 < 64 := by decide

theorem witness_BigEndianLoadAndStoreInvert : [1#8, 2#8, 3#8, 4#8].length = 4 := by decide

/-- Each clause at the ends of its range of `t`. -/
theorem witness_Sha1RoundEquations :
    (∀ t ∈ [0, 19], t < 20) ∧ (∀ t ∈ [20, 39], 20 ≤ t ∧ t < 40) ∧ (∀ t ∈ [40, 59], 40 ≤ t ∧ t < 60)
      ∧ ∀ t ∈ [60, 79], 60 ≤ t ∧ t < 80 := by decide

theorem witness_Cmp1CompressesOneBlock : (ready .sha1).algH = .sha1 ivSha1 := rfl

theorem witness_Cmp2Width32CompressesOneBlock :
    ((ready .sha224).algH = .sha224 ivSha224 ∨ (ready .sha224).algH = .sha256 ivSha224)
      ∧ ((ready .sha256).algH = .sha224 ivSha256 ∨ (ready .sha256).algH = .sha256 ivSha256) :=
  ⟨.inl rfl, .inr rfl⟩

theorem witness_Cmp2Width64CompressesOneBlock :
    ((ready .sha384).algH = .sha384 ivSha384 ∨ (ready .sha384).algH = .sha512 ivSha384)
      ∧ ((ready .sha512).algH = .sha384 ivSha512 ∨ (ready .sha512).algH = .sha512 ivSha512) :=
  ⟨.inl rfl, .inr rfl⟩

theorem witness_Sha2RoundEquations :
    ∃ t1 t2 : Word32,
      t1 = ivSha256.h + bigSigma width32.bigSigma1 ivSha256.e
          + ((ivSha256.e &&& ivSha256.f) ^^^ (~~~ivSha256.e &&& ivSha256.g))
          + width32.constants.getD 63 0#32 + 5#32
        ∧ t2 = bigSigma width32.bigSigma0 ivSha256.a
          + ((ivSha256.a &&& ivSha256.b) ^^^ (ivSha256.a &&& ivSha256.c)
            ^^^ (ivSha256.b &&& ivSha256.c)) := ⟨_, _, rfl, rfl⟩

/-- `outlen` below and above the digest size. -/
theorem witness_SerCopiesDigestPrefix :
    let s := { preset (times 32 0xee#8) (ready .sha224) with outlen := 27 }
    let u := { preset (times 32 0xee#8) (ready .sha224) with outlen := 29 }
    s.alg = some .sha224 ∧ s.out.wf ∧ s.outlen < digestSize .sha224
      ∧ u.alg = some .sha224 ∧ u.out.wf ∧ digestSize .sha224 < u.outlen := by decide +kernel

theorem witness_StepKeepsInvariant :
    Inv (afterZeros .sha384 127) ∧ step (afterZeros .sha384 127) = .next (afterZeros .sha384 127)
      ∧ reserve16.Legal ∧ stepAt reserve16 (afterZeros .sha384 127) = .next (afterZeros .sha384 127) :=
  ⟨afterZeros_inv _ _ (by decide), rfl, by decide, rfl⟩

/-- A step that runs a command, in a state that meets the invariant. -/
theorem witness_StepKeepsInvariant_with_a_command :
    Inv (facing (.command 0x140000000000000000#72 [(0, 1#8)]) State.reset)
      ∧ (nextOf (step (facing (.command 0x140000000000000000#72 [(0, 1#8)]) State.reset))).phase = .ready := by
  refine ⟨⟨⟨by decide, by decide, by decide, ?_⟩, ⟨by decide, by decide, by decide, ?_, by decide, by decide,
    by decide⟩, rfl, rfl, rfl, by decide⟩, by decide⟩
  · intro e he
    obtain rfl := List.mem_singleton.mp he
    decide
  · intro hp
    cases hp

theorem witness_StepKeepsMemoryCanonical :
    MemoryCanonical (facing (.micro 0x880000000000000000#72 .buf 20) (ready .sha1))
      ∧ step (facing (.micro 0x880000000000000000#72 .buf 20) (ready .sha1))
        = .next (runSer ((ready .sha1).latchOutlen 20)) := by
  refine ⟨⟨by decide, by decide, by decide, ?_⟩, rfl⟩
  intro e he
  obtain rfl := List.mem_singleton.mp he
  trivial

theorem witness_NoTransientSurvivesACommand :
    (Instr.finish 20).isHost = true
      ∧ exec (.finish 20) (ready .sha1) = .next (finalize lenReserve 20 (ready .sha1))
      ∧ execAt reserve16 (.finish 20) (ready .sha384) = .next (finalize reserve16 20 (ready .sha384)) :=
  ⟨rfl, rfl, rfl⟩

theorem witness_AlgIsWrittenBySelectAlone :
    exec .selectSha256 (ready .sha1) = .next (initContext .sha256 (ready .sha1))
      ∧ Instr.selectSha256 = selectInstr .sha256
      ∧ exec .init (ready .sha1) = .next (initContext .sha1 (ready .sha1))
      ∧ ∀ a, Instr.init ≠ selectInstr a := by
  refine ⟨rfl, rfl, rfl, fun a => ?_⟩
  cases a <;> decide

theorem witness_OutputIsWrittenByFinishAlone :
    (exec (.finish 6) (ready .sha1) = .next (finalize lenReserve 6 (ready .sha1)) ∧ (ready .sha1).out.wf
        ∧ (ready .sha1).alg = some .sha1 ∧ min 6 (digestSize .sha1) ≤ 6)
      ∧ (exec .ser (ready .sha1) = .next (runSer (ready .sha1)) ∧ 0 = (ready .sha1).outlen)
      ∧ exec .padl (ready .sha1) = .next (runPadL (ready .sha1)) :=
  ⟨⟨rfl, by decide, rfl, by decide⟩, ⟨rfl, rfl⟩, rfl⟩

theorem witness_MicroOperationsKeepTheLifecycle :
    Instr.padf.isHost = false ∧ exec .padf (ready .sha1) = .next (runPadF lenReserve (ready .sha1)) :=
  ⟨rfl, rfl⟩

theorem witness_ResetLeavesOnlySelectLegal :
    (facing .reset (holding .sha1 3 [1#8, 2#8, 3#8])).pending = .reset :: [] := rfl

theorem witness_ResultAndVariantCodes : 5 ≤ (5#3).toNat ∧ 5 ≤ (7#3).toNat := by decide

end Sys2Proof.Tests
end

section
/-! ## The step: what each event makes of it, and the placed word (00_scope.md R11) -/

namespace Sys2Proof.Machine

section
variable {run : Instr → State → Host.Outcome State Fault Refusal} {s : State} {rest : List Event}

/-- A command word that decodes is run with its `IN` latched. -/
theorem stepBy_command {cw : CommandWord} {inp : Memory} {i : Instr}
    (hp : s.pending = .command cw inp :: rest) (hd : decodeHost cw = some i) :
    stepBy run s = run i ((s.waiting rest).latchInput inp) := by
  simp only [stepBy, hp, accept, acceptCommand, hd]

/-- A word of the sequencer that decodes is run with its operands latched. -/
theorem stepBy_micro {cw : CommandWord} {src : BlockSource} {outlen : Nat} {i : Instr}
    (hp : s.pending = .micro cw src outlen :: rest) (hd : decodeMicro cw = some i) :
    stepBy run s = run i (((s.waiting rest).select src).latchOutlen outlen) := by
  simp only [stepBy, hp, accept, acceptMicro, hd]

theorem stepBy_reset (hp : s.pending = .reset :: rest) :
    stepBy run s = .next (hardwareReset (s.waiting rest)) := by
  simp only [stepBy, hp, accept]

theorem stepBy_output {out : Memory} (hp : s.pending = .output out :: rest) :
    stepBy run s = .next ((s.waiting rest).presetOutput out) := by
  simp only [stepBy, hp, accept]

theorem stepBy_idle (hp : s.pending = []) : stepBy run s = .next s := by
  simp only [stepBy, hp, idle]

end

/-- Settles O6: one rule of the step per event. -/
theorem stepRunsDecodedInstruction : Obligations.StepRunsDecodedInstruction := by
  unfold Obligations.StepRunsDecodedInstruction
  intro s rest
  refine ⟨?_, ?_, ?_, ?_, ?_⟩
  · intro cw inp i hp hd
    exact stepBy_command hp hd
  · intro cw src outlen i hp hd
    exact stepBy_micro hp hd
  · intro hp
    exact stepBy_reset hp
  · intro out hp
    exact stepBy_output hp
  · intro hp
    exact stepBy_idle hp

theorem decodeHost_update {n : Nat} (hn : fitsOperand n) :
    decodeHost (encode (.update n)) = some (.update n) := by
  simpa [encode, decodeHost, isReserved] using hn

theorem decodeHost_finish {outlen : Nat} (hn : fitsOperand outlen) :
    decodeHost (encode (.finish outlen)) = some (.finish outlen) := by
  simpa [encode, decodeHost, isReserved] using hn

/-- The command port reads a host command back from its word (30_encoding.md R92). -/
theorem decodeHost_encode {i : Instr} (hw : i.WellFormed) (hi : i.isHost = true) :
    decodeHost (encode i) = some i := by
  cases i with
  | update n => exact decodeHost_update (of_decide_eq_true hw)
  | finish outlen => exact decodeHost_finish (of_decide_eq_true hw)
  | selectSha1 | selectSha224 | selectSha256 | selectSha384 | selectSha512 | init => decide
  | padf | padl | sched1 | cmp1 | sched2w32 | cmp2w32 | sched2w64 | cmp2w64 | ser => cases hi

/-- The sequencer reads a micro-operation back from its word (30_encoding.md R86). -/
theorem decodeMicro_encode {i : Instr} (hi : i.isHost = false) : decodeMicro (encode i) = some i := by
  cases i with
  | selectSha1 | selectSha224 | selectSha256 | selectSha384 | selectSha512 | init | update | finish =>
    cases hi
  | padf | padl | sched1 | cmp1 | sched2w32 | cmp2w32 | sched2w64 | cmp2w64 | ser => decide

/-- The words of the internal space `op = 0x8` are those of the micro-operations (30_encoding.md R86). -/
theorem opField_encode_micro (i : Instr) : opField (encode i) = 0x8#4 ↔ i.isHost = false := by
  cases i <;> simp [encode, Instr.isHost]

/-- A word of the opcode table is placed as the event of its own port. -/
theorem withFetchWord_toNat (s : State) (cw : CommandWord) :
    s.withFetchWord 72 cw.toNat = placeFirst (eventOfWord cw s) s := by
  simp only [State.withFetchWord, placeTableWord, tableWord_toNat]

/-- The step of a state with a word placed runs the word's instruction on that state, whatever runs the
instructions: taking the event restores what waited, and its operands are those the state holds. -/
theorem stepBy_withFetchWord (run : Instr → State → Host.Outcome State Fault Refusal) {i : Instr}
    (s : State) (hw : i.WellFormed) : stepBy run (s.withFetchWord 72 (encode i).toNat) = run i s := by
  rw [withFetchWord_toNat]
  cases hi : i.isHost with
  | true =>
    have hop : opField (encode i) ≠ 0x8#4 := by simp [opField_encode_micro, hi]
    rw [eventOfWord, if_neg hop]
    exact stepBy_command (placeFirst_pending _ _) (decodeHost_encode hw hi)
  | false =>
    rw [eventOfWord, if_pos ((opField_encode_micro i).mpr hi)]
    exact stepBy_micro (placeFirst_pending _ _) (decodeMicro_encode hi)

/-- Settles O7, from the rule of the placed word, at `exec` and at `execAt`. -/
theorem placedWordRunsItsInstruction : Obligations.PlacedWordRunsItsInstruction := by
  unfold Obligations.PlacedWordRunsItsInstruction
  intro i s hw
  exact ⟨stepBy_withFetchWord exec s hw, fun lr => stepBy_withFetchWord (execAt lr) s hw⟩

/-- `PADF` and `FINISH` alone depend on `LEN_RESERVE` (42_padding.md R154). -/
theorem execAt_eq_exec (lr : Config.LenReserve) {i : Instr} (s : State) (hf : ∀ n, i ≠ .finish n)
    (hp : i ≠ .padf) : execAt lr i s = exec i s := by
  cases i with
  | finish n => exact absurd rfl (hf n)
  | padf => exact absurd rfl hp
  | selectSha1 | selectSha224 | selectSha256 | selectSha384 | selectSha512 | init | update | padl | sched1
  | cmp1 | sched2w32 | cmp2w32 | sched2w64 | cmp2w64 | ser => rfl

/-- Settles O57, instruction by instruction. -/
theorem parameterTouchesPaddingAlone : Obligations.ParameterTouchesPaddingAlone := by
  unfold Obligations.ParameterTouchesPaddingAlone
  exact ⟨execAt_lenReserve, stepAt_lenReserve, fun lr _ s hf hp => execAt_eq_exec lr s hf hp⟩

/-- Settles O13, variant by variant. -/
theorem configurationParameters : Obligations.ConfigurationParameters := by
  unfold Obligations.ConfigurationParameters
  intro a
  cases a with
  | sha1 | sha224 | sha256 | sha384 | sha512 => rfl

end Sys2Proof.Machine
end

section
/-! ## The bytes that padding and the serializer write -/

namespace Sys2Proof.Machine

/-- Byte `i` of a big-endian store (40_word_arithmetic.md R118). -/
theorem getD_beStore {w k i : Nat} (v : BitVec w) (hi : i < k) :
    (beStore k v).getD i 0#8 = BitVec.ofNat 8 (v.toNat / 2 ^ (8 * (k - 1 - i))) := by
  have hbyte : (beStore k v).getD i 0#8 = (v >>> (8 * (k - 1 - i))).setWidth 8 := by
    simp [beStore, List.getD, hi]
  rw [hbyte]
  apply BitVec.eq_of_toNat_eq
  simp [Nat.shiftRight_eq_div_pow]

/-- Byte `i` of the length field of a count that does not overflow (20_memory.md R53). -/
theorem getD_lengthField {count i : Nat} (hc : count < 2 ^ 61) (hi : i < 8) :
    (lengthField (count * 8)).getD i 0#8 = BitVec.ofNat 8 (count * 8 / 2 ^ (8 * (7 - i))) := by
  have hlt : count * 8 < 2 ^ 64 := by omega
  rw [lengthField_of_lt hlt, getD_beStore _ hi, BitVec.toNat_ofNat, Nat.mod_eq_of_lt hlt]

/-- Every legal `LEN_RESERVE` leaves room for the 8 bytes of the length field. -/
theorem eight_le_lenReserve {lr : Config.LenReserve} (hlr : lr.Legal) (a : Alg) : 8 ≤ lr (blockSize a) := by
  obtain ⟨h64, h128⟩ := hlr
  rcases blockSize_cases a with h | h <;> rw [h] <;> omega

/-- `PADF` on a selected variant writes `BUF` and the report as its first pass gives them. -/
theorem execAt_padf {lr : Config.LenReserve} {a : Alg} {s : State} (ha : s.alg = some a) :
    execAt lr .padf s = .next (s.padded (padF lr (blockSize a) s.buf s.count.toNat)) := by
  rw [← bufSize_of_alg ha]
  exact execPadfAt_next.mpr ⟨⟨a, ha⟩, rfl⟩

/-- Settles O58, by the bytes of the first pass in its two cases. -/
theorem padfForEveryLenReserve : Obligations.PadfForEveryLenReserve := by
  unfold Obligations.PadfForEveryLenReserve
  rintro lr a size off s hlr ha hw rfl rfl hc
  have hs := blockSize_cases a
  have hoff : s.count.toNat % blockSize a < blockSize a := Nat.mod_lt _ (blockSize_pos a)
  have h8 := eight_le_lenReserve hlr a
  refine ⟨_, execAt_padf ha, rfl, fun hfit => ⟨?_, fun i => ?_⟩, fun hfit => ⟨?_, fun i => ?_⟩⟩
  · exact (padF_report hs).trans (by rw [if_neg (by omega), if_pos hfit])
  · refine (read_padF_fits hw hs hc h8 hfit i).trans ?_
    by_cases hlast : blockSize a - 8 ≤ i ∧ i < blockSize a
    · rw [if_pos hlast, getD_lengthField hc (by omega), if_neg (by omega), if_neg (by omega),
        if_neg (by omega), show 7 - (i - (blockSize a - 8)) = blockSize a - 1 - i by omega]
    · rw [if_neg hlast]
      grind [marker]
  · exact (padF_report hs).trans (by rw [if_neg (by omega), if_neg (by omega)])
  · refine (read_padF_spills hw hs hc (by omega) i).trans ?_
    grind [marker]

/-! ## The padded message in `BUF` -/

/-- A byte string that an array holds from an offset on. -/
theorem Memory.readBytes_eq {m : Memory} {a : Nat} {bs : List Byte}
    (h : ∀ i < bs.length, m.read (a + i) = bs.getD i 0#8) : m.readBytes a bs.length = bs := by
  apply List.ext_getElem (by simp)
  intro i h1 h2
  rw [Memory.getElem_readBytes, h i h2, List.getD_eq_getElem _ _ h2]

/-- A byte string just written is read back. -/
theorem Memory.readBytes_writeBytes {m : Memory} (hm : m.wf) (a : Nat) (bs : List Byte) :
    (m.writeBytes a bs).readBytes a bs.length = bs := by
  refine Memory.readBytes_eq fun i hi => ?_
  rw [Memory.read_writeBytes hm, if_pos (by omega), Nat.add_sub_cancel_left]

/-- A range that ends before a write is read as before. -/
theorem Memory.readBytes_writeBytes_before {m : Memory} (hm : m.wf) {a b n : Nat} (bs : List Byte)
    (h : b + n ≤ a) : (m.writeBytes a bs).readBytes b n = m.readBytes b n :=
  Memory.readBytes_congr fun i hi => by rw [Memory.read_writeBytes hm, if_neg (by omega)]

/-- An array filled up to `a`, with a byte string written there: both in a row. -/
theorem Memory.readBytes_append_writeBytes {m : Memory} (hm : m.wf) {a n : Nat} (bs : List Byte)
    (h : n = a + bs.length) : (m.writeBytes a bs).readBytes 0 n = m.readBytes 0 a ++ bs := by
  rw [h, Memory.readBytes_add, Memory.readBytes_writeBytes_before hm bs (by omega), Nat.zero_add,
    Memory.readBytes_writeBytes hm]

/-- The marker written after the bytes in `BUF`, and a run of zeros after it. -/
theorem readBytes_marked {buf : Memory} (hw : buf.wf) (off gap : Nat) {n : Nat} (h : n = off + 1 + gap) :
    ((buf.write off marker).writeBytes (off + 1) (zeroBytes gap)).readBytes 0 n
      = buf.readBytes 0 off ++ marker :: zeroBytes gap := by
  rw [Memory.readBytes_append_writeBytes (Memory.wf_write hw _ _) _ (by rw [length_zeroBytes, h]),
    show buf.write off marker = buf.writeBytes off [marker] from rfl,
    Memory.readBytes_append_writeBytes hw (n := off + 1) [marker] rfl, List.append_assoc]
  rfl

section
variable {lr : Config.LenReserve} {size count : Nat} {buf : Memory}

/-- The block after a first pass in which the length field fits: the bytes in `BUF` and what padding
appends to them (42_padding.md R163). -/
theorem readBytes_padF_fits (hw : buf.wf) (hs : size = 64 ∨ size = 128) (hc : count < 2 ^ 61)
    (hlr : 8 ≤ lr size) (hfit : lr size ≤ size - (count % size + 1)) :
    (padF lr size buf count).buf.readBytes 0 size
      = buf.readBytes 0 (count % size) ++ paddingOf lr size count := by
  rw [padF_fits hs hc hfit, paddingOf, if_pos hfit, Nat.mul_comm 8 count]
  rw [Memory.readBytes_append_writeBytes (Memory.wf_writeBytes (Memory.wf_write hw _ _) _ _) _
      (by rw [length_lengthField]; omega),
    readBytes_marked hw _ _ (by omega), List.append_assoc]
  rfl

/-- The two blocks where the length field does not fit: after the first pass, and after the finalization
pass on a cleared buffer. -/
theorem readBytes_padF_spills (hw : buf.wf) (hs : size = 64 ∨ size = 128) (hc : count < 2 ^ 61)
    (hfit : ¬ lr size ≤ size - (count % size + 1)) :
    (padF lr size buf count).buf.readBytes 0 size
        ++ (padL size Memory.zeros count).buf.readBytes 0 size
      = buf.readBytes 0 (count % size) ++ paddingOf lr size count := by
  have hoff : count % size < size := Nat.mod_lt _ (by omega)
  have hcleared : Memory.zeros.readBytes 0 (size - 8) = zeroBytes (size - 8) := by
    conv_lhs => rw [← length_zeroBytes (size - 8)]
    exact Memory.readBytes_eq fun i _ => by rw [getD_zeroBytes, Memory.read_zeros]
  rw [padF_spills hs hc hfit, padL_supported hs, paddingOf, if_neg hfit, Nat.mul_comm 8 count,
    readBytes_marked hw _ _ (by omega),
    Memory.readBytes_append_writeBytes Memory.wf_zeros _ (by rw [length_lengthField]; omega), hcleared,
    List.append_assoc]
  rfl

end

/-! ## `FINISH` on an absorbed message -/

theorem blocksOf_one {size : Nat} (hs : 0 < size) {b : List Byte} (hb : b.length = size) :
    blocksOf size b = [b] := by
  have h := blocksOf_block_append hs b [] hb
  rwa [List.append_nil, blocksOf_short (size := size) (bytes := []) hs] at h

/-- `FINISH` below the overflow is its end on a state that the padding passes leave: there `OUT`, `count` and
`alg` are as before and `outlen` is latched. -/
theorem finalize_completes {lr : Config.LenReserve} {a : Alg} {s : State} (outlen : Nat)
    (ha : s.alg = some a) (hc : s.count.toNat < 2 ^ 61) :
    ∃ p, finalize lr outlen s = finishDigest p ∧ p.out = s.out ∧ p.outlen = outlen ∧ p.count = s.count
      ∧ p.alg = s.alg := by
  rcases finalize_cases lr outlen ha with ⟨hov, -⟩ | ⟨-, -, heq⟩ | ⟨-, -, heq⟩
  · omega
  · exact ⟨_, heq, rfl, rfl, rfl, rfl⟩
  · exact ⟨_, heq, rfl, rfl, rfl, by simp [State.alg]⟩

/-- `H` after `FINISH`: the bytes in `BUF` and their padding, compressed block by block
(41_streaming_engine.md R137 to R140). -/
theorem finalize_algH {lr : Config.LenReserve} {a : Alg} {s : State} (outlen : Nat)
    (hlr : 8 ≤ lr (blockSize a)) (ha : s.alg = some a) (hw : s.buf.wf) (hc : s.count.toNat < 2 ^ 61) :
    (finalize lr outlen s).algH = compressAll s.algH (blocksOf (blockSize a)
      (s.buf.readBytes 0 (s.count.toNat % blockSize a) ++ paddingOf lr (blockSize a) s.count.toNat)) := by
  have hs := blockSize_cases a
  have hpos := blockSize_pos a
  have hsize : s.algH.bufSize = blockSize a := bufSize_of_alg ha
  rcases finalize_cases lr outlen ha with ⟨hov, -⟩ | ⟨-, hfit, heq⟩ | ⟨-, hspill, heq⟩
  · omega
  · rw [heq, ← readBytes_padF_fits hw hs hc hlr hfit, blocksOf_one hpos (by simp)]
    simp [hsize, compressAll_cons, compressAll_nil]
  · rw [heq, ← readBytes_padF_spills hw hs hc hspill, blocksOf_block_append hpos _ _ (by simp),
      blocksOf_one hpos (by simp)]
    simp [hsize, compressAll_cons, compressAll_nil]

theorem length_serializeWords {w : Nat} (k : Nat) (words : List (BitVec w)) :
    (serializeWords k words).length = words.length * k := by
  simp [serializeWords, List.length_flatMap, length_beStore]

/-- The digest of a variant has `DS` bytes (45_digest_serializer.md R223). -/
theorem length_digest {x : AlgH} {a : Alg} (h : x.alg = some a) : x.digest.length = digestSize a := by
  cases x with
  | unselected => cases h
  | sha1 h' | sha224 h' | sha256 h' | sha384 h' | sha512 h' =>
    cases h
    simp [AlgH.digest, digestOfWords, length_serializeWords, Words5.toList, Words8.toList, wordsSerialized,
      wordBytes, wordBits, digestSize]

/-- The bytes of `OUT` after the serializer: `min(outlen, DS)` of the digest, the rest as before
(45_digest_serializer.md R224). -/
theorem read_writeBytes_output {x : AlgH} {a : Alg} (hx : x.alg = some a) {out : Memory} (hw : out.wf)
    (outlen i : Nat) :
    (out.writeBytes 0 (x.output outlen)).read i
      = if i < min outlen (digestSize a) then x.digest.getD i 0#8 else out.read i := by
  have hlen : (x.output outlen).length = min outlen (digestSize a) := by
    simp [AlgH.output, length_digest hx]
  rw [Memory.read_writeBytes hw, hlen]
  by_cases h : i < min outlen (digestSize a)
  · rw [if_pos (by omega), if_pos h, AlgH.output, length_digest hx]
    simp [List.getD, h]
  · rw [if_neg (by omega), if_neg h]

theorem Absorbed.alg {a : Alg} {msg : List Byte} {s : State} (h : Absorbed a msg s) : s.alg = some a := by
  rw [State.alg, h.chaining, compressAll_alg, initial_alg]

/-- `FINISH` on a context that has absorbed a message leaves in `H` the chaining value of the whole padded
message: its whole blocks are in `H` already, its tail is in `BUF`. -/
theorem Absorbed.finalize_algH {lr : Config.LenReserve} {a : Alg} {msg : List Byte} {s : State}
    (h : Absorbed a msg s) (outlen : Nat) (hlr : 8 ≤ lr (blockSize a)) (hw : s.buf.wf)
    (hc : s.count.toNat < 2 ^ 61) :
    (finalize lr outlen s).algH
      = compressAll (AlgH.initial a) (blocksOf (blockSize a) (paddedMessage lr (blockSize a) msg)) := by
  rw [Machine.finalize_algH outlen hlr h.alg hw hc, h.count, ← h.fill, h.tail, h.chaining,
    ← compressAll_append, ← blocksOf_append_tail (blockSize_pos a), paddedMessage]

/-- Settles O24: the end of `FINISH` serializes the chaining value of the padded message. -/
theorem digestForEveryLenReserve : Obligations.DigestForEveryLenReserve := by
  unfold Obligations.DigestForEveryLenReserve
  intro lr a msg outlen s hlr habs hw hout hlen
  have hc : s.count.toNat < 2 ^ 61 := by rw [habs.count]; exact hlen
  have hH := habs.finalize_algH outlen (eight_le_lenReserve hlr a) hw hc
  obtain ⟨p, heq, hpout, hplen, hpcount, hpalg⟩ := finalize_completes (lr := lr) outlen habs.alg hc
  have hend : (finishDigest p).alg = some a := (algH_compress_alg _ _).trans (hpalg.trans habs.alg)
  refine ⟨finishDigest p, execFinishAt_next.mpr ⟨habs.phase, ⟨a, habs.alg⟩, heq.symm⟩, rfl, rfl, hpcount,
    hend, fun i => ?_⟩
  have hbytes : (finishDigest p).out = s.out.writeBytes 0 ((finishDigest p).algH.output outlen) := by
    rw [← hpout, ← hplen]
    rfl
  rw [hbytes, read_writeBytes_output hend hout, digestOfMessage, ← hH, heq]

end Sys2Proof.Machine
end

section
/-! ## Reset, and the refusals without a variant or with another engine selected -/

namespace Sys2Proof.Machine

/-- The context of the reset state: UNSEL claims nothing of `fill`, `BUF` or `RES` but that `BUF` lists no byte
(10_state.md R39). -/
theorem contextInv_reset : ContextInv State.reset where
  selected hp := absurd rfl hp
  inside := Memory.below_zeros _
  fillBelow hp := nomatch hp
  tailZero hp := nomatch hp
  fillIsCount hp := nomatch hp
  resultOk _ := rfl
  resultErr hp := nomatch hp

/-- Settles O47: every array is empty and no event waits. -/
theorem resetMeetsInvariant : Obligations.ResetMeetsInvariant where
  memory := ⟨Memory.wf_zeros, Memory.wf_zeros, Memory.wf_zeros, List.forall_mem_nil _⟩
  context := contextInv_reset
  report := rfl
  source := rfl
  operand := rfl
  outside := List.forall_mem_nil _

section
variable {s : State}

theorem execPadfAt_noVariant {lr : Config.LenReserve} (ha : s.alg = none) :
    execPadfAt lr s = .refused .noVariant := by
  rw [execPadfAt, ha]

theorem execPadl_noVariant (ha : s.alg = none) : execPadl s = .refused .noVariant := by
  rw [execPadl, ha]

theorem execSer_noVariant (ha : s.alg = none) : execSer s = .refused .noVariant := by
  rw [execSer, ha]

theorem execInit_noVariant (hp : s.phase ≠ .unsel) (ha : s.alg = none) :
    execInit s = .refused .noVariant := by
  rw [execInit, initRefusal_none.mpr hp, ha]

theorem execUpdate_noVariant {n : Nat} (hp : s.phase = .ready) (ha : s.alg = none) :
    execUpdate n s = .refused .noVariant := by
  rw [execUpdate, useRefusal_none.mpr hp, ha]

theorem execFinishAt_noVariant {lr : Config.LenReserve} {outlen : Nat} (hp : s.phase = .ready)
    (ha : s.alg = none) : execFinishAt lr outlen s = .refused .noVariant := by
  rw [execFinishAt, useRefusal_none.mpr hp, ha]

theorem execCmp1_notSelected (h : s.alg ≠ some .sha1) : execCmp1 s = .refused .engineNotSelected := by
  unfold execCmp1
  split
  case h_1 ha => exact absurd ha h
  all_goals rfl

theorem execCmp2w32_notSelected (h224 : s.alg ≠ some .sha224) (h256 : s.alg ≠ some .sha256) :
    execCmp2w32 s = .refused .engineNotSelected := by
  unfold execCmp2w32
  split
  case h_1 ha => exact absurd ha h224
  case h_2 ha => exact absurd ha h256
  all_goals rfl

theorem execCmp2w64_notSelected (h384 : s.alg ≠ some .sha384) (h512 : s.alg ≠ some .sha512) :
    execCmp2w64 s = .refused .engineNotSelected := by
  unfold execCmp2w64
  split
  case h_1 ha => exact absurd ha h384
  case h_2 ha => exact absurd ha h512
  all_goals rfl

end

/-- Settles O9, one refusal per instruction. -/
theorem stopsWithoutTheConfiguration : Obligations.StopsWithoutTheConfiguration := by
  unfold Obligations.StopsWithoutTheConfiguration
  refine ⟨fun s n ha => ⟨execPadfAt_noVariant ha, execPadl_noVariant ha, execSer_noVariant ha,
      fun hp => execInit_noVariant hp ha,
      fun hp => ⟨execUpdate_noVariant hp ha, execFinishAt_noVariant hp ha⟩⟩,
    fun s h => ?_, fun s h224 h256 => ?_, fun s h384 h512 => ?_⟩
  · exact execCmp1_notSelected h
  · exact execCmp2w32_notSelected h224 h256
  · exact execCmp2w64_notSelected h384 h512

end Sys2Proof.Machine
end

section
/-! ## What a command keeps: `alg`, and no transient -/

namespace Sys2Proof.Machine

@[simp] theorem directBlocks_alg (size blocks pos : Nat) (s : State) :
    (directBlocks size blocks pos s).algH.alg = s.algH.alg := by
  induction blocks generalizing pos s with
  | zero => rfl
  | succ n ih => rw [directBlocks, ih, compress_algH, algH_compress_alg]

/-- `UPDATE` compresses blocks into `H` and keeps the variant (10_state.md R21). -/
@[simp] theorem absorb_alg (size n : Nat) (s : State) : (absorb size n s).alg = s.alg := by
  rw [State.alg, State.alg, absorb]
  split <;> simp [absorbBlocks]

@[simp] theorem takeFailure_alg (s : State) : (takeFailure s).alg = s.alg := freeAlgH_alg _ _

@[simp] theorem finishDigest_alg (s : State) : (finishDigest s).alg = s.alg := algH_compress_alg _ _

/-- `FINISH` keeps the variant, where it fails too (10_state.md R21, R38). -/
theorem finalize_alg (lr : Config.LenReserve) (outlen : Nat) {s : State} {a : Alg} (ha : s.alg = some a) :
    (finalize lr outlen s).alg = s.alg := by
  rcases finalize_cases lr outlen ha with ⟨-, heq⟩ | ⟨-, -, heq⟩ | ⟨-, -, heq⟩ <;> rw [heq]
  · exact takeFailure_alg _
  · exact finishDigest_alg _
  · exact (finishDigest_alg _).trans (algH_compress_alg _ _)

/-- `SELECT` completes in every state (46_selector_facade.md R230). -/
theorem exec_select (a : Alg) (s : State) : exec (selectInstr a) s = .next (initContext a s) := by
  cases a <;> rfl

theorem exec_alg_of_not_select {i : Instr} {s t : State} (hi : ∀ a, i ≠ selectInstr a)
    (h : exec i s = .next t) : t.alg = s.alg := by
  cases i with
  | selectSha1 => exact absurd rfl (hi .sha1)
  | selectSha224 => exact absurd rfl (hi .sha224)
  | selectSha256 => exact absurd rfl (hi .sha256)
  | selectSha384 => exact absurd rfl (hi .sha384)
  | selectSha512 => exact absurd rfl (hi .sha512)
  | init =>
    obtain ⟨-, a, ha, rfl⟩ := execInit_next.mp h
    exact (initial_alg a).trans ha.symm
  | update n =>
    obtain ⟨-, a, -, ⟨-, rfl⟩ | ⟨-, -, rfl⟩⟩ := execUpdate_next.mp h
    · rfl
    · exact absorb_alg _ _ _
  | finish outlen =>
    obtain ⟨-, ⟨a, ha⟩, rfl⟩ := execFinish_next.mp h
    exact finalize_alg _ _ ha
  | padf => rw [(execPadf_next.mp h).2]; rfl
  | padl => rw [(execPadl_next.mp h).2]; rfl
  | ser => rw [(execSer_next.mp h).2]; rfl
  | sched1 | sched2w32 | sched2w64 => cases h; rfl
  | cmp1 => rw [(execCmp1_next.mp h).2]; exact algH_compress_alg _ _
  | cmp2w32 => rw [(execCmp2w32_next.mp h).2]; exact algH_compress_alg _ _
  | cmp2w64 => rw [(execCmp2w64_next.mp h).2]; exact algH_compress_alg _ _

/-- Settles O49: `SELECT` constructs the context of its variant, and no other instruction changes `alg`. -/
theorem algIsWrittenBySelectAlone : Obligations.AlgIsWrittenBySelectAlone := by
  unfold Obligations.AlgIsWrittenBySelectAlone
  refine fun i s t h => ⟨?_, fun hi => exec_alg_of_not_select hi h⟩
  rintro a rfl
  rw [exec_select] at h
  cases h
  exact initial_alg a

/-- Everything a command of the host that completes can have done. Unlike `execAt_next` it says where: a command
that is no `SELECT` and no `INIT` completes in READY with a variant selected (10_state.md R29). -/
theorem execAt_host_next {lr : Config.LenReserve} {i : Instr} {s t : State} (hi : i.isHost = true)
    (h : execAt lr i s = .next t) :
    (∃ a, t = initContext a s)
      ∨ s.phase = .ready ∧ ∃ a, s.alg = some a
        ∧ (t = s.answer .ok
          ∨ (∃ n, s.count.toNat + n < 2 ^ 64 ∧ t = absorb (blockSize a) n s)
          ∨ ∃ outlen, t = finalize lr outlen s) := by
  cases i with
  | selectSha1 | selectSha224 | selectSha256 | selectSha384 | selectSha512 =>
    cases h
    exact .inl ⟨_, rfl⟩
  | init =>
    obtain ⟨-, a, -, rfl⟩ := execInit_next.mp h
    exact .inl ⟨a, rfl⟩
  | update n =>
    obtain ⟨hp, a, ha, ⟨-, rfl⟩ | ⟨-, hc, rfl⟩⟩ := execUpdate_next.mp h
    · exact .inr ⟨hp, a, ha, .inl rfl⟩
    · exact .inr ⟨hp, a, ha, .inr (.inl ⟨n, hc, rfl⟩)⟩
  | finish outlen =>
    obtain ⟨hp, ⟨a, ha⟩, rfl⟩ := execFinishAt_next.mp h
    exact .inr ⟨hp, a, ha, .inr (.inr ⟨outlen, rfl⟩)⟩
  | padf | padl | sched1 | cmp1 | sched2w32 | cmp2w32 | sched2w64 | cmp2w64 | ser => cases hi

/-- Each of the ends of `FINISH` drops the transients (10_state.md R32, R41). -/
theorem finalize_transients (lr : Config.LenReserve) (outlen : Nat) {s : State} {a : Alg}
    (ha : s.alg = some a) :
    (finalize lr outlen s).padReport = .noValue ∧ (finalize lr outlen s).src = .buf
      ∧ (finalize lr outlen s).outlen = 0 := by
  rcases finalize_cases lr outlen ha with ⟨-, heq⟩ | ⟨-, -, heq⟩ | ⟨-, -, heq⟩ <;> rw [heq] <;>
    exact ⟨rfl, rfl, rfl⟩

theorem execAt_host_transients {lr : Config.LenReserve} {i : Instr} {s t : State} (hi : i.isHost = true)
    (h : execAt lr i s = .next t) : t.padReport = .noValue ∧ t.src = .buf ∧ t.outlen = 0 := by
  obtain ⟨a, rfl⟩ | ⟨-, a, ha, rfl | ⟨n, -, rfl⟩ | ⟨outlen, rfl⟩⟩ := execAt_host_next hi h
  · exact ⟨rfl, rfl, rfl⟩
  · exact ⟨rfl, rfl, rfl⟩
  · exact ⟨absorb_padReport _ _ _, absorb_src _ _ _, absorb_outlen _ _ _⟩
  · exact finalize_transients lr outlen ha

/-- Settles O59: every end of a host command drops the transients. -/
theorem noTransientSurvivesACommand : Obligations.NoTransientSurvivesACommand := by
  unfold Obligations.NoTransientSurvivesACommand
  rintro lr i s t hi (h | h)
  · exact execAt_host_transients hi ((execAt_lenReserve i s).trans h)
  · exact execAt_host_transients hi h

end Sys2Proof.Machine
end

section
/-! ## The invariant: the byte arrays -/

namespace Sys2Proof.Machine

theorem freeBuf_wf (draw size : Nat) : (freeBuf draw size).wf := Memory.wf_ofBytes _

theorem freeBuf_below (draw size : Nat) : (freeBuf draw size).below size := by
  simpa [freeBuf] using Memory.below_ofBytes ((List.range size).map (Config.freeByte draw))

section
variable {s : State}

theorem memoryCanonical_initContext (a : Alg) (h : MemoryCanonical s) : MemoryCanonical (initContext a s) :=
  ⟨Memory.wf_zeros, h.inp, h.out, h.pending⟩

theorem memoryCanonical_answer (r : Res) (h : MemoryCanonical s) : MemoryCanonical (s.answer r) :=
  ⟨h.buf, h.inp, h.out, h.pending⟩

theorem memoryCanonical_absorb (size n : Nat) (h : MemoryCanonical s) :
    MemoryCanonical (absorb size n s) where
  buf := absorb_buf_wf n s h.buf
  inp := by simpa using h.inp
  out := by simpa using h.out
  pending := by simpa using h.pending

theorem memoryCanonical_runPadF (lr : Config.LenReserve) (h : MemoryCanonical s) :
    MemoryCanonical (runPadF lr s) :=
  ⟨padF_wf _ h.buf, h.inp, h.out, h.pending⟩

theorem memoryCanonical_runPadL (h : MemoryCanonical s) : MemoryCanonical (runPadL s) :=
  ⟨padL_wf _ h.buf, h.inp, h.out, h.pending⟩

theorem memoryCanonical_latchOutlen (outlen : Nat) (h : MemoryCanonical s) :
    MemoryCanonical (s.latchOutlen outlen) :=
  ⟨h.buf, h.inp, h.out, h.pending⟩

theorem memoryCanonical_betweenPasses (h : MemoryCanonical s) : MemoryCanonical (betweenPasses s) :=
  ⟨Memory.wf_zeros, h.inp, h.out, h.pending⟩

theorem memoryCanonical_finishDigest (h : MemoryCanonical s) : MemoryCanonical (finishDigest s) :=
  ⟨h.buf, h.inp, Memory.wf_writeBytes h.out _ _, h.pending⟩

theorem memoryCanonical_takeFailure (h : MemoryCanonical s) : MemoryCanonical (takeFailure s) :=
  ⟨freeBuf_wf _ _, h.inp, h.out, h.pending⟩

theorem memoryCanonical_hardwareReset (h : MemoryCanonical s) : MemoryCanonical (hardwareReset s) :=
  ⟨freeBuf_wf _ _, h.inp, h.out, h.pending⟩

theorem memoryCanonical_finalize (lr : Config.LenReserve) (outlen : Nat) {a : Alg} (ha : s.alg = some a)
    (h : MemoryCanonical s) : MemoryCanonical (finalize lr outlen s) := by
  have hpad := memoryCanonical_runPadF lr (memoryCanonical_latchOutlen outlen h)
  rcases finalize_cases lr outlen ha with ⟨-, heq⟩ | ⟨-, -, heq⟩ | ⟨-, -, heq⟩ <;> rw [heq]
  · exact memoryCanonical_takeFailure hpad
  · exact memoryCanonical_finishDigest hpad
  · exact memoryCanonical_finishDigest (memoryCanonical_runPadL (memoryCanonical_betweenPasses hpad))

end

end Sys2Proof.Machine
end

section
/-! ## The invariant: the context -/

namespace Sys2Proof.Machine

theorem contextInv_initContext (a : Alg) (s : State) : ContextInv (initContext a s) where
  selected _ := by simp [State.alg]
  inside := Memory.below_zeros _
  fillBelow _ := by simp [bufSize_of_alg (initial_alg a), blockSize_pos]
  tailZero _ _ _ := rfl
  fillIsCount _ := by simp
  resultOk _ := rfl
  resultErr hp := nomatch hp

/-- Outside READY the invariant speaks of the variant, the extent of `BUF` and `RES` alone. -/
theorem contextInv_of_not_ready {s : State} (hp : s.phase ≠ .ready) (ha : s.phase ≠ .unsel → s.alg ≠ none)
    (hb : s.buf.below s.algH.bufSize) (hok : s.phase = .done → s.res = .ok)
    (herr : s.phase = .failed → s.res = .err) : ContextInv s where
  selected := ha
  inside := hb
  fillBelow h := absurd h hp
  tailZero h := absurd h hp
  fillIsCount h := absurd h hp
  resultOk h := hok (h.resolve_left hp)
  resultErr := herr

theorem contextInv_hardwareReset (s : State) : ContextInv (hardwareReset s) :=
  contextInv_of_not_ready nofun (absurd rfl) (freeBuf_below _ _) nofun nofun

theorem contextInv_takeFailure {s : State} {a : Alg} (ha : s.alg = some a) : ContextInv (takeFailure s) :=
  contextInv_of_not_ready nofun (fun _ => by simp [ha]) (freeBuf_below _ _) nofun
    fun _ => rfl

theorem contextInv_finishDigest {s : State} {a : Alg} (ha : s.alg = some a)
    (hb : s.buf.below s.algH.bufSize) : ContextInv (finishDigest s) :=
  contextInv_of_not_ready nofun (fun _ => by simp [ha]) (by simpa using hb)
    (fun _ => rfl) nofun

/-- An empty `UPDATE` in READY: `RES` is OK there already. -/
theorem contextInv_answer_ok {s : State} (hp : s.phase = .ready) (h : ContextInv s) :
    ContextInv (s.answer .ok) where
  selected := h.selected
  inside := h.inside
  fillBelow := h.fillBelow
  tailZero := h.tailZero
  fillIsCount := h.fillIsCount
  resultOk _ := rfl
  resultErr hf := nomatch hp.symm.trans hf

/-- The bytes of `BUF` after its valid ones stay zero (10_state.md R26). -/
theorem read_absorb_of_fill_le {size n i : Nat} {s : State} (hw : s.buf.wf) (hf : s.fill < size)
    (hz : ∀ i, s.fill ≤ i → s.buf.read i = 0#8) (hi : (absorb size n s).fill ≤ i) :
    (absorb size n s).buf.read i = 0#8 := by
  rw [absorb_fill n s hf] at hi
  by_cases h : s.fill + n < size
  · rw [Nat.mod_eq_of_lt h] at hi
    rw [read_absorb_short n s hw h, if_neg (by omega), hz i (by omega)]
  · rw [read_absorb_long n s hf (by omega), if_neg (by omega)]

/-- `UPDATE` keeps `fill = count mod B` (10_state.md R27), where `count` does not wrap. -/
theorem absorb_fill_eq_count_mod {size n : Nat} {s : State} (hf : s.fill < size)
    (hc : s.count.toNat + n < 2 ^ 64) (h : s.fill = s.count.toNat % size) :
    (absorb size n s).fill = (absorb size n s).count.toNat % size := by
  have hcount : (absorb size n s).count.toNat = s.count.toNat + n := by
    rw [absorb_count, advance_count, BitVec.toNat_ofNat, Nat.mod_eq_of_lt hc]
  rw [absorb_fill n s hf, hcount, h, Nat.mod_add_mod]

theorem contextInv_absorb {s : State} {a : Alg} {n : Nat} (hp : s.phase = .ready) (ha : s.alg = some a)
    (hc : s.count.toNat + n < 2 ^ 64) (hw : s.buf.wf) (h : ContextInv s) :
    ContextInv (absorb (blockSize a) n s) := by
  have hsize : s.algH.bufSize = blockSize a := bufSize_of_alg ha
  have hsize' : (absorb (blockSize a) n s).algH.bufSize = blockSize a :=
    bufSize_of_alg ((absorb_alg _ _ _).trans ha)
  have hf : s.fill < blockSize a := hsize ▸ h.fillBelow hp
  exact
    { selected := fun _ => by simp [ha]
      inside := by
        rw [hsize']
        exact absorb_buf_below n s (hsize ▸ h.inside) hf
      fillBelow := fun _ => by
        rw [hsize', absorb_fill n s hf]
        exact Nat.mod_lt _ (blockSize_pos a)
      tailZero := fun _ _ => read_absorb_of_fill_le hw hf (h.tailZero hp)
      fillIsCount := fun _ => by
        rw [hsize']
        exact absorb_fill_eq_count_mod hf hc (hsize ▸ h.fillIsCount hp)
      resultOk := fun _ => absorb_res _ _ _
      resultErr := fun hfailed => by simp [hp] at hfailed }

/-- `FINISH` keeps `BUF` within its `B` bytes: each pass of padding does. -/
theorem contextInv_finalize {lr : Config.LenReserve} {s : State} {a : Alg} (outlen : Nat) (hlr : lr.Legal)
    (ha : s.alg = some a) (h : ContextInv s) : ContextInv (finalize lr outlen s) := by
  have h8 : 8 ≤ lr s.algH.bufSize := by
    rw [bufSize_of_alg ha]
    exact eight_le_lenReserve hlr a
  rcases finalize_cases lr outlen ha with ⟨-, heq⟩ | ⟨-, -, heq⟩ | ⟨-, -, heq⟩ <;> rw [heq]
  · exact contextInv_takeFailure ha
  · exact contextInv_finishDigest ha (padF_below _ h8 h.inside)
  · exact contextInv_finishDigest ((algH_compress_alg _ _).trans ha) (padL_below _ (Memory.below_zeros _))

end Sys2Proof.Machine
end

section
/-! ## The invariant: commands, events and the step -/

namespace Sys2Proof.Machine

theorem legal_lenReserve : lenReserve.Legal := by decide

theorem finalize_pending (lr : Config.LenReserve) (outlen : Nat) {s : State} {a : Alg} (ha : s.alg = some a) :
    (finalize lr outlen s).pending = s.pending := by
  rcases finalize_cases lr outlen ha with ⟨-, heq⟩ | ⟨-, -, heq⟩ | ⟨-, -, heq⟩ <;> rw [heq] <;> rfl

/-- No command of the host writes what waits at the ports. -/
theorem execAt_host_pending {lr : Config.LenReserve} {i : Instr} {s t : State} (hi : i.isHost = true)
    (h : execAt lr i s = .next t) : t.pending = s.pending := by
  obtain ⟨a, rfl⟩ | ⟨-, a, ha, rfl | ⟨n, -, rfl⟩ | ⟨outlen, rfl⟩⟩ := execAt_host_next hi h
  · rfl
  · rfl
  · exact absorb_pending _ _ _
  · exact finalize_pending _ _ ha

/-- A command of the host that completes keeps the invariant, at every `LEN_RESERVE` the spec allows. -/
theorem inv_execAt {lr : Config.LenReserve} {i : Instr} {s t : State} (hlr : lr.Legal)
    (hi : i.isHost = true) (hs : Inv s) (h : execAt lr i s = .next t) : Inv t := by
  obtain ⟨hreport, hsource, hoperand⟩ := execAt_host_transients hi h
  obtain ⟨hmemory, hcontext⟩ : MemoryCanonical t ∧ ContextInv t := by
    obtain ⟨a, rfl⟩ | ⟨hp, a, ha, rfl | ⟨n, hc, rfl⟩ | ⟨outlen, rfl⟩⟩ := execAt_host_next hi h
    · exact ⟨memoryCanonical_initContext a hs.memory, contextInv_initContext a s⟩
    · exact ⟨memoryCanonical_answer .ok hs.memory, contextInv_answer_ok hp hs.context⟩
    · exact ⟨memoryCanonical_absorb _ n hs.memory,
        contextInv_absorb hp ha hc hs.memory.buf hs.context⟩
    · exact ⟨memoryCanonical_finalize lr outlen ha hs.memory, contextInv_finalize outlen hlr ha hs.context⟩
  exact ⟨hmemory, hcontext, hreport, hsource, hoperand, execAt_host_pending hi h ▸ hs.outside⟩

/-- The host's arrays and the queue of events are outside the engine: any canonical ones from outside may stand
in a state that meets the invariant. -/
theorem inv_of_host_side {s : State} {inp out : Memory} {pending : List Event} (hs : Inv s) (hinp : inp.wf)
    (hout : out.wf) (hcanonical : ∀ e ∈ pending, e.Canonical) (houtside : ∀ e ∈ pending, e.isOutside = true) :
    Inv { s with inp := inp, out := out, pending := pending } where
  memory := ⟨hs.memory.buf, hinp, hout, hcanonical⟩
  context :=
    { selected := hs.context.selected
      inside := hs.context.inside
      fillBelow := hs.context.fillBelow
      tailZero := hs.context.tailZero
      fillIsCount := hs.context.fillIsCount
      resultOk := hs.context.resultOk
      resultErr := hs.context.resultErr }
  report := hs.report
  source := hs.source
  operand := hs.operand
  outside := houtside

/-- The oldest event of a state that meets the invariant brings a canonical array from outside, and without it
the state meets the invariant. -/
theorem inv_waiting {s : State} {e : Event} {rest : List Event} (hs : Inv s) (hp : s.pending = e :: rest) :
    e.Canonical ∧ e.isOutside = true ∧ Inv (s.waiting rest) := by
  have hcanonical := hs.memory.pending
  have houtside := hs.outside
  rw [hp, List.forall_mem_cons] at hcanonical houtside
  exact ⟨hcanonical.1, houtside.1,
    inv_of_host_side hs hs.memory.inp hs.memory.out hcanonical.2 houtside.2⟩

theorem inv_latchInput {s : State} {inp : Memory} (hs : Inv s) (hinp : inp.wf) : Inv (s.latchInput inp) :=
  inv_of_host_side hs hinp hs.memory.out hs.memory.pending hs.outside

theorem inv_presetOutput {s : State} {out : Memory} (hs : Inv s) (hout : out.wf) : Inv (s.presetOutput out) :=
  inv_of_host_side hs hs.memory.inp hout hs.memory.pending hs.outside

theorem inv_hardwareReset {s : State} (hs : Inv s) : Inv (hardwareReset s) :=
  ⟨memoryCanonical_hardwareReset hs.memory, contextInv_hardwareReset s, rfl, rfl, rfl, hs.outside⟩

/-- A step keeps the invariant, event by event; the sequencer's port is excluded by the invariant itself. -/
theorem inv_stepAt {lr : Config.LenReserve} {s t : State} (hlr : lr.Legal) (hs : Inv s)
    (h : stepAt lr s = .next t) : Inv t := by
  rcases stepBy_next h with ⟨-, rfl⟩ | ⟨cw, inp, rest, i, hp, hd, hrun⟩ | ⟨cw, src, outlen, rest, i, hp, -, -⟩
    | ⟨rest, hp, rfl⟩ | ⟨out, rest, hp, rfl⟩
  · exact hs
  · obtain ⟨hinp, -, hrest⟩ := inv_waiting hs hp
    exact inv_execAt hlr (decodeHost_isHost hd) (inv_latchInput hrest hinp) hrun
  · obtain ⟨-, houtside, -⟩ := inv_waiting hs hp
    cases houtside
  · obtain ⟨-, -, hrest⟩ := inv_waiting hs hp
    exact inv_hardwareReset hrest
  · obtain ⟨hout, -, hrest⟩ := inv_waiting hs hp
    exact inv_presetOutput hrest hout

/-- Settles O46: the step at each legal `LEN_RESERVE` keeps the invariant, and `step` is the one at the default. -/
theorem stepKeepsInvariant : Obligations.StepKeepsInvariant := by
  unfold Obligations.StepKeepsInvariant
  exact fun s t hs => ⟨fun h => inv_stepAt legal_lenReserve hs ((stepAt_lenReserve s).trans h),
    fun lr hlr h => inv_stepAt hlr hs h⟩

end Sys2Proof.Machine
end

section
/-! ## Several engines in a system (20_memory.md R67) -/

namespace Sys2Proof.Machine

theorem System.stepOne_eq_modify (lr : Config.LenReserve) (sys : System) (j : Nat) :
    sys.stepOne lr j = sys.modify j (stepContext lr) := by
  induction sys generalizing j with
  | nil => simp [System.stepOne]
  | cons c cs ih =>
    cases j with
    | zero => rfl
    | succ j => simp [System.stepOne, ih]

/-- A step of the system is a step of the engine it names, and leaves every other one where it is. -/
theorem System.getElem?_stepOne (lr : Config.LenReserve) (sys : System) (j k : Nat) :
    (sys.stepOne lr j)[k]? = if j = k then sys[k]?.map (stepContext lr) else sys[k]? := by
  rw [System.stepOne_eq_modify, List.getElem?_modify]
  split <;> simp

/-- Settles O53, by induction on the schedule: its first step moves the engine it names alone. -/
theorem instancesAreIndependent : Obligations.InstancesAreIndependent := by
  unfold Obligations.InstancesAreIndependent
  intro lr sys schedule k
  induction schedule generalizing sys with
  | nil => simp [System.run, runAlone]
  | cons j js ih =>
    change (System.run lr (sys.stepOne lr j) js)[k]? = _
    rw [ih, System.getElem?_stepOne]
    by_cases hjk : j = k
    · subst hjk
      rw [if_pos rfl, List.count_cons_self, Option.map_map]
      rfl
    · rw [if_neg hjk, List.count_cons_of_ne hjk]

end Sys2Proof.Machine
end

section
/-! ## The byte arrays stay canonical, on the sequencer's port too (20_memory.md R50) -/

namespace Sys2Proof.Machine

section
variable {s : State}

theorem memoryCanonical_compress (src : BlockSource) (h : MemoryCanonical s) :
    MemoryCanonical (s.compress src) :=
  ⟨h.buf, h.inp, h.out, h.pending⟩

theorem memoryCanonical_runSer (h : MemoryCanonical s) : MemoryCanonical (runSer s) :=
  ⟨h.buf, h.inp, Memory.wf_writeBytes h.out _ _, h.pending⟩

theorem memoryCanonical_expanded (w : Schedule) (h : MemoryCanonical s) : MemoryCanonical (s.expanded w) :=
  ⟨h.buf, h.inp, h.out, h.pending⟩

theorem memoryCanonical_select (src : BlockSource) (h : MemoryCanonical s) :
    MemoryCanonical (s.select src) :=
  ⟨h.buf, h.inp, h.out, h.pending⟩

theorem memoryCanonical_latchInput {inp : Memory} (hinp : inp.wf) (h : MemoryCanonical s) :
    MemoryCanonical (s.latchInput inp) :=
  ⟨h.buf, hinp, h.out, h.pending⟩

theorem memoryCanonical_presetOutput {out : Memory} (hout : out.wf) (h : MemoryCanonical s) :
    MemoryCanonical (s.presetOutput out) :=
  ⟨h.buf, h.inp, hout, h.pending⟩

/-- The oldest event brings a canonical array, and without it the state is canonical. -/
theorem memoryCanonical_waiting {e : Event} {rest : List Event} (h : MemoryCanonical s)
    (hp : s.pending = e :: rest) : e.Canonical ∧ MemoryCanonical (s.waiting rest) := by
  have hevents := h.pending
  rw [hp, List.forall_mem_cons] at hevents
  exact ⟨hevents.1, h.buf, h.inp, h.out, hevents.2⟩

/-- An instruction that completes keeps the arrays canonical, at any value of `LEN_RESERVE`. -/
theorem memoryCanonical_execAt {lr : Config.LenReserve} {i : Instr} {t : State} (hs : MemoryCanonical s)
    (h : execAt lr i s = .next t) : MemoryCanonical t := by
  obtain ⟨a, rfl⟩ | rfl | ⟨a, n, -, -, -, -, -, rfl⟩ | ⟨a, outlen, -, -, ha, rfl⟩
    | ⟨-, rfl | rfl | rfl | rfl | ⟨w, rfl⟩⟩ := execAt_next h
  · exact memoryCanonical_initContext a hs
  · exact memoryCanonical_answer .ok hs
  · exact memoryCanonical_absorb _ n hs
  · exact memoryCanonical_finalize lr outlen ha hs
  · exact memoryCanonical_runPadF lr hs
  · exact memoryCanonical_runPadL hs
  · exact memoryCanonical_compress _ hs
  · exact memoryCanonical_runSer hs
  · exact memoryCanonical_expanded w hs

/-- A step keeps the arrays canonical, event by event: what an event brings is canonical while it waits. -/
theorem memoryCanonical_stepAt {lr : Config.LenReserve} {t : State} (hs : MemoryCanonical s)
    (h : stepAt lr s = .next t) : MemoryCanonical t := by
  rcases stepBy_next h with ⟨-, rfl⟩ | ⟨cw, inp, rest, i, hp, -, hrun⟩
    | ⟨cw, src, outlen, rest, i, hp, -, hrun⟩ | ⟨rest, hp, rfl⟩ | ⟨out, rest, hp, rfl⟩
  · exact hs
  · obtain ⟨hinp, hrest⟩ := memoryCanonical_waiting hs hp
    exact memoryCanonical_execAt (memoryCanonical_latchInput hinp hrest) hrun
  · obtain ⟨-, hrest⟩ := memoryCanonical_waiting hs hp
    exact memoryCanonical_execAt
      (memoryCanonical_latchOutlen outlen (memoryCanonical_select src hrest)) hrun
  · obtain ⟨-, hrest⟩ := memoryCanonical_waiting hs hp
    exact memoryCanonical_hardwareReset hrest
  · obtain ⟨hout, hrest⟩ := memoryCanonical_waiting hs hp
    exact memoryCanonical_presetOutput hout hrest

end

/-- Settles O48: `step` is the step at the default `LEN_RESERVE`. -/
theorem stepKeepsMemoryCanonical : Obligations.StepKeepsMemoryCanonical := by
  unfold Obligations.StepKeepsMemoryCanonical
  exact fun s _ hs h => memoryCanonical_stepAt hs ((stepAt_lenReserve s).trans h)

end Sys2Proof.Machine
end

section
/-! ## What an instruction writes of the host's side: `OUT`, by `FINISH` and `SER` (20_memory.md R58) -/

namespace Sys2Proof.Machine

theorem finalize_inp (lr : Config.LenReserve) (outlen : Nat) {s : State} {a : Alg} (ha : s.alg = some a) :
    (finalize lr outlen s).inp = s.inp := by
  rcases finalize_cases lr outlen ha with ⟨-, heq⟩ | ⟨-, -, heq⟩ | ⟨-, -, heq⟩ <;> rw [heq] <;> rfl

/-- No instruction writes `IN` or what waits at the ports. -/
theorem execAt_inp_pending {lr : Config.LenReserve} {i : Instr} {s t : State} (h : execAt lr i s = .next t) :
    t.inp = s.inp ∧ t.pending = s.pending := by
  obtain ⟨a, rfl⟩ | rfl | ⟨a, n, -, -, -, -, -, rfl⟩ | ⟨a, outlen, -, -, ha, rfl⟩
    | ⟨-, rfl | rfl | rfl | rfl | ⟨w, rfl⟩⟩ := execAt_next h
  case inr.inr.inl => exact ⟨absorb_inp _ _ _, absorb_pending _ _ _⟩
  case inr.inr.inr.inl => exact ⟨finalize_inp _ _ ha, finalize_pending _ _ ha⟩
  all_goals exact ⟨rfl, rfl⟩

/-- Every instruction but `FINISH` and `SER` leaves `OUT` alone. -/
theorem exec_out {i : Instr} {s t : State} (hf : ∀ n, i ≠ .finish n) (hser : i ≠ .ser)
    (h : exec i s = .next t) : t.out = s.out := by
  cases i with
  | finish n => exact absurd rfl (hf n)
  | ser => exact absurd rfl hser
  | selectSha1 | selectSha224 | selectSha256 | selectSha384 | selectSha512 | sched1 | sched2w32 | sched2w64 =>
    cases h
    rfl
  | init =>
    obtain ⟨-, a, -, rfl⟩ := execInit_next.mp h
    rfl
  | update n =>
    obtain ⟨-, a, -, ⟨-, rfl⟩ | ⟨-, -, rfl⟩⟩ := execUpdate_next.mp h
    · rfl
    · exact absorb_out _ _ _
  | padf => rw [(execPadf_next.mp h).2]; rfl
  | padl => rw [(execPadl_next.mp h).2]; rfl
  | cmp1 => rw [(execCmp1_next.mp h).2]; rfl
  | cmp2w32 => rw [(execCmp2w32_next.mp h).2]; rfl
  | cmp2w64 => rw [(execCmp2w64_next.mp h).2]; rfl

section
variable {s : State} {a : Alg} {k : Nat}

/-- `SER` leaves the bytes of `OUT` from `min(outlen, DS)` on (45_digest_serializer.md R224). -/
theorem read_runSer_out (ha : s.alg = some a) (hw : s.out.wf) (hk : min s.outlen (digestSize a) ≤ k) :
    (runSer s).out.read k = s.out.read k := by
  rw [runSer_out, read_writeBytes_output ha hw, if_neg (by omega)]

/-- `FINISH` leaves the bytes of `OUT` from `min(outlen, DS)` on, and all of them where it fails. -/
theorem read_finalize_out {lr : Config.LenReserve} {outlen : Nat} (ha : s.alg = some a) (hw : s.out.wf)
    (hk : min outlen (digestSize a) ≤ k) : (finalize lr outlen s).out.read k = s.out.read k := by
  by_cases hc : s.count.toNat < 2 ^ 61
  · obtain ⟨p, heq, hout, hoperand, -, halg⟩ := finalize_completes (lr := lr) outlen ha hc
    subst hoperand
    rw [heq, ← hout]
    exact read_runSer_out (s := p.compress .buf) ((algH_compress_alg _ _).trans (halg.trans ha))
      (by rwa [compress_out, hout]) hk
  · rw [finalize_overflow ha (by omega)]
    rfl

end

/-- Settles O50, from the frame of every instruction and the bytes that the serializer writes. -/
theorem outputIsWrittenByFinishAlone : Obligations.OutputIsWrittenByFinishAlone := by
  unfold Obligations.OutputIsWrittenByFinishAlone
  intro i s t h hw
  obtain ⟨hinp, hpending⟩ := execAt_inp_pending ((execAt_lenReserve i s).trans h)
  refine ⟨hinp, hpending, fun hf hser => exec_out hf hser h, ?_⟩
  rintro n a (rfl | ⟨rfl, rfl⟩) ha k hk
  · obtain ⟨-, -, rfl⟩ := execFinish_next.mp h
    exact read_finalize_out ha hw hk
  · obtain ⟨-, rfl⟩ := execSer_next.mp h
    exact read_runSer_out ha hw hk

end Sys2Proof.Machine
end

section
/-! ## The blocks of `FINISH` and the bytes of `BUF` it leaves (20_memory.md R60) -/

namespace Sys2Proof.Machine

/-- The block that a first pass leaves where the length field does not fit. -/
theorem readBytes_padF_spills_first {lr : Config.LenReserve} {size count : Nat} {buf : Memory} (hw : buf.wf)
    (hs : size = 64 ∨ size = 128) (hc : count < 2 ^ 61) (hfit : ¬ lr size ≤ size - (count % size + 1)) :
    (padF lr size buf count).buf.readBytes 0 size
      = buf.readBytes 0 (count % size) ++ marker :: zeroBytes (size - 1 - count % size) := by
  have hoff : count % size < size := Nat.mod_lt _ (by omega)
  rw [padF_spills hs hc hfit, readBytes_marked hw _ _ (by omega)]

section
variable {lr : Config.LenReserve} {a : Alg} {s : State}

/-- `FINISH` in one block compresses the one that its first pass leaves in `BUF`. -/
theorem finalize_one_block (outlen : Nat) (ha : s.alg = some a) (hc : s.count.toNat < 2 ^ 61)
    (hfit : lr (blockSize a) ≤ blockSize a - (s.count.toNat % blockSize a + 1)) :
    (finalize lr outlen s).buf = (padF lr (blockSize a) s.buf s.count.toNat).buf
      ∧ (finalize lr outlen s).algH
        = s.algH.compress ((finalize lr outlen s).buf.readBytes 0 (blockSize a)) := by
  have hsize : s.algH.bufSize = blockSize a := bufSize_of_alg ha
  rw [finalize_fits ha hc hfit]
  simp [hsize]

/-- `FINISH` in two blocks compresses the one that its first pass leaves, then the one that the finalization
pass makes of a cleared `BUF`. -/
theorem finalize_two_blocks (outlen : Nat) (ha : s.alg = some a) (hc : s.count.toNat < 2 ^ 61)
    (hfit : ¬ lr (blockSize a) ≤ blockSize a - (s.count.toNat % blockSize a + 1)) :
    (finalize lr outlen s).buf = (padL (blockSize a) Memory.zeros s.count.toNat).buf
      ∧ (finalize lr outlen s).algH
        = (s.algH.compress ((padF lr (blockSize a) s.buf s.count.toNat).buf.readBytes 0 (blockSize a))).compress
            ((finalize lr outlen s).buf.readBytes 0 (blockSize a)) := by
  have hsize : s.algH.bufSize = blockSize a := bufSize_of_alg ha
  rw [finalize_spills ha hc hfit]
  simp [hsize]

end

/-- Byte `i` of a block that ends in the length field (20_memory.md R53, R60). -/
theorem getD_lengthField_at {size count i : Nat} (hs : size = 64 ∨ size = 128) (hc : count < 2 ^ 61)
    (hi : i < size) (hlast : size - 8 ≤ i) :
    (lengthField (count * 8)).getD (i - (size - 8)) 0#8
      = BitVec.ofNat 8 (count * 8 / 2 ^ (8 * (size - 1 - i))) := by
  rw [getD_lengthField hc (by omega), show 7 - (i - (size - 8)) = size - 1 - i by omega]

/-- The length field of the default `LEN_RESERVE` fits exactly from `off = B - 9` down (42_padding.md R154). -/
theorem lenReserve_fits_iff {size off : Nat} (hs : size = 64 ∨ size = 128) :
    lenReserve size ≤ size - (off + 1) ↔ off ≤ size - 9 := by
  rw [lenReserve]
  omega

/-- Settles O27: in each of the two cases the blocks of `FINISH`, and the bytes that the last padding pass
leaves. -/
theorem finishPadsInOneOrTwoBlocks : Obligations.FinishPadsInOneOrTwoBlocks := by
  unfold Obligations.FinishPadsInOneOrTwoBlocks
  rintro a outlen size off s hp ha hw hc rfl rfl
  have hs := blockSize_cases a
  refine ⟨finalize lenReserve outlen s, execFinish_next.mpr ⟨hp, ⟨a, ha⟩, rfl⟩, fun h => ?_, fun h => ?_⟩
  · have hfit := (lenReserve_fits_iff hs).mpr h
    obtain ⟨hbuf, halgH⟩ := finalize_one_block outlen ha hc hfit
    refine ⟨halgH, fun i hi => ?_⟩
    rw [hbuf, read_padF_fits hw hs hc (by rw [lenReserve]) hfit i]
    by_cases hlast : blockSize a - 8 ≤ i
    · rw [if_pos ⟨hlast, hi⟩, getD_lengthField_at hs hc hi hlast, if_neg (by omega), if_neg (by omega),
        if_neg (by omega)]
    · rw [if_neg (by omega)]
      grind [marker]
  · have hfit : ¬ lenReserve (blockSize a) ≤ blockSize a - (s.count.toNat % blockSize a + 1) :=
      mt (lenReserve_fits_iff hs).mp (by omega)
    obtain ⟨hbuf, halgH⟩ := finalize_two_blocks outlen ha hc hfit
    refine ⟨?_, fun i hi => ?_⟩
    · rw [readBytes_padF_spills_first hw hs hc hfit] at halgH
      exact halgH
    · rw [hbuf, read_padL Memory.wf_zeros hs]
      by_cases hlast : blockSize a - 8 ≤ i
      · rw [if_pos ⟨hlast, hi⟩, getD_lengthField_at hs hc hi hlast, if_neg (by omega)]
      · rw [if_neg (by omega), if_pos (by omega), Memory.read_zeros]

end Sys2Proof.Machine
end

section
/-! ## The decoders and the encoder (30_encoding.md R80 to R86, R92) -/

namespace Sys2Proof.Machine

/-- The reserved words of 30_encoding.md R85, by the numbers in their fields. -/
theorem isReserved_iff (cw : CommandWord) : isReserved cw = true ↔
    ((opField cw).toNat = 0 ∨ (opField cw).toNat = 5 ∨ (opField cw).toNat = 6 ∨ (opField cw).toNat = 7
        ∨ 9 ≤ (opField cw).toNat)
      ∨ ((opField cw).toNat = 1 ∧ 5 ≤ (argField cw).toNat)
      ∨ ((opField cw).toNat = 1 ∧ (nField cw).toNat ≠ 0)
      ∨ ((opField cw).toNat = 2 ∧ ((argField cw).toNat ≠ 0 ∨ (nField cw).toNat ≠ 0))
      ∨ (((opField cw).toNat = 3 ∨ (opField cw).toNat = 4) ∧ (argField cw).toNat ≠ 0)
      ∨ (opField cw).toNat = 8 := by
  simp [isReserved, ← BitVec.toNat_inj, BitVec.le_def, or_assoc]

/-- The fields of a word that is not reserved, by the rows of 30_encoding.md R83. -/
theorem isReserved_eq_false_iff (cw : CommandWord) : isReserved cw = false ↔
    (opField cw = 0x1#4 ∧ (argField cw).toNat < 5 ∧ nField cw = 0#64)
      ∨ (opField cw = 0x2#4 ∧ argField cw = 0#4 ∧ nField cw = 0#64)
      ∨ (opField cw = 0x3#4 ∧ argField cw = 0#4)
      ∨ (opField cw = 0x4#4 ∧ argField cw = 0#4) := by
  rw [← Bool.not_eq_true, isReserved_iff]
  simp only [← BitVec.toNat_inj, BitVec.toNat_ofNat]
  omega

/-- A word is fixed by what its three fields are. -/
theorem eq_commandWord {cw : CommandWord} {op arg : BitVec 4} {n : BitVec 64} (hop : opField cw = op)
    (harg : argField cw = arg) (hn : nField cw = n) : commandWord op arg n = cw := by
  rw [← hop, ← harg, ← hn, commandWord_fields]

/-- The codes 0 to 4 in `arg` are those of the five variants (30_encoding.md R84). -/
theorem exists_encode_selectInstr {arg : BitVec 4} (h : arg.toNat < 5) :
    ∃ a, encode (selectInstr a) = commandWord 0x1#4 arg 0#64 := by
  obtain rfl | rfl | rfl | rfl | rfl : arg = 0#4 ∨ arg = 1#4 ∨ arg = 2#4 ∨ arg = 3#4 ∨ arg = 4#4 := by
    simp only [← BitVec.toNat_inj, BitVec.toNat_ofNat]
    omega
  exacts [⟨.sha1, rfl⟩, ⟨.sha224, rfl⟩, ⟨.sha256, rfl⟩, ⟨.sha384, rfl⟩, ⟨.sha512, rfl⟩]

theorem selectInstr_wellFormed (a : Alg) : (selectInstr a).WellFormed := by cases a <;> rfl

theorem selectInstr_isHost (a : Alg) : (selectInstr a).isHost = true := by cases a <;> rfl

/-- A length field of 64 bits is an operand. -/
theorem fitsOperand_toNat (n : BitVec 64) : decide (fitsOperand n.toNat) = true := decide_eq_true n.isLt

theorem encode_update_toNat (n : BitVec 64) : encode (.update n.toNat) = commandWord 0x3#4 0#4 n := by
  rw [encode, BitVec.ofNat_toNat, BitVec.setWidth_eq]

theorem encode_finish_toNat (n : BitVec 64) : encode (.finish n.toNat) = commandWord 0x4#4 0#4 n := by
  rw [encode, BitVec.ofNat_toNat, BitVec.setWidth_eq]

/-- A word that is not reserved is the word of a command of the host: R85 leaves no other word over. -/
theorem exists_encode_of_not_reserved {cw : CommandWord} (h : isReserved cw = false) :
    ∃ i : Instr, i.isHost = true ∧ i.WellFormed ∧ encode i = cw := by
  obtain ⟨hop, harg, hn⟩ | ⟨hop, harg, hn⟩ | ⟨hop, harg⟩ | ⟨hop, harg⟩ := (isReserved_eq_false_iff cw).mp h
  · obtain ⟨a, ha⟩ := exists_encode_selectInstr harg
    exact ⟨selectInstr a, selectInstr_isHost a, selectInstr_wellFormed a,
      ha.trans (eq_commandWord hop rfl hn)⟩
  · exact ⟨.init, rfl, rfl, eq_commandWord hop harg hn⟩
  · exact ⟨.update (nField cw).toNat, rfl, fitsOperand_toNat _,
      (encode_update_toNat _).trans (eq_commandWord hop harg rfl)⟩
  · exact ⟨.finish (nField cw).toNat, rfl, fitsOperand_toNat _,
      (encode_finish_toNat _).trans (eq_commandWord hop harg rfl)⟩

/-- The command port decodes every word that is not reserved (30_encoding.md R85, R92). -/
theorem decodeHost_eq_none_iff (cw : CommandWord) : decodeHost cw = none ↔ isReserved cw = true := by
  refine ⟨fun h => ?_, fun h => by rw [decodeHost, if_pos h]⟩
  by_contra hr
  obtain ⟨i, hi, hw, rfl⟩ := exists_encode_of_not_reserved (Bool.eq_false_iff.mpr hr)
  rw [decodeHost_encode hw hi] at h
  cases h

/-- What the command port decodes is the word of a well-formed command, and it decodes to that command. -/
theorem decodeHost_eq_some_iff {cw : CommandWord} {i : Instr} :
    decodeHost cw = some i ↔ i.isHost = true ∧ i.WellFormed ∧ encode i = cw := by
  refine ⟨fun h => ?_, fun ⟨hi, hw, he⟩ => he ▸ decodeHost_encode hw hi⟩
  have hr : isReserved cw = false := by
    rw [← Bool.not_eq_true, ← decodeHost_eq_none_iff, h]
    exact Option.some_ne_none i
  obtain ⟨j, hj, hw, rfl⟩ := exists_encode_of_not_reserved hr
  obtain rfl : j = i := Option.some.inj ((decodeHost_encode hw hj).symm.trans h)
  exact ⟨hj, hw, rfl⟩

/-- An index of the internal space is the `arg` of the word of its micro-operation (30_encoding.md R86). -/
theorem encode_of_microOfIndex {arg : BitVec 4} {i : Instr} (h : microOfIndex arg = some i) :
    i.isHost = false ∧ encode i = commandWord 0x8#4 arg 0#64 := by
  unfold microOfIndex at h
  split_ifs at h <;> cases h <;> subst arg <;> exact ⟨rfl, rfl⟩

/-- What the sequencer decodes is the word of a micro-operation, and it decodes to that micro-operation. -/
theorem decodeMicro_eq_some_iff {cw : CommandWord} {i : Instr} :
    decodeMicro cw = some i ↔ i.isHost = false ∧ encode i = cw := by
  refine ⟨fun h => ?_, fun ⟨hi, he⟩ => he ▸ decodeMicro_encode hi⟩
  rw [decodeMicro, Option.ite_none_right_eq_some] at h
  obtain ⟨⟨hop, hn⟩, hm⟩ := h
  obtain ⟨hi, he⟩ := encode_of_microOfIndex hm
  exact ⟨hi, he.trans (eq_commandWord hop rfl hn)⟩

/-- The command port reads no word of the internal space (30_encoding.md R85, R86). -/
theorem decodeHost_encode_micro {i : Instr} (hi : i.isHost = false) : decodeHost (encode i) = none := by
  rw [decodeHost_eq_none_iff, isReserved_iff, (opField_encode_micro i).mpr hi]
  simp

/-- A micro-operation has no operand that could be too large. -/
theorem wellFormed_of_micro {i : Instr} (hi : i.isHost = false) : i.WellFormed := by
  cases i with
  | selectSha1 | selectSha224 | selectSha256 | selectSha384 | selectSha512 | init | update | finish =>
    cases hi
  | padf | padl | sched1 | cmp1 | sched2w32 | cmp2w32 | sched2w64 | cmp2w64 | ser => rfl

theorem decodeWord_of_host {cw : CommandWord} {i : Instr} (h : decodeHost cw = some i) :
    decodeWord cw = some i := by
  rw [decodeWord, h]

theorem decodeWord_of_micro {cw : CommandWord} {i : Instr} (h : decodeMicro cw = some i) :
    decodeWord cw = some i := by
  obtain ⟨hi, rfl⟩ := decodeMicro_eq_some_iff.mp h
  rw [decodeWord, decodeHost_encode_micro hi]
  exact h

/-- A word that decodes is read by one of the two decoders. -/
theorem decodeWord_eq_some {cw : CommandWord} {i : Instr} (h : decodeWord cw = some i) :
    decodeHost cw = some i ∨ decodeMicro cw = some i := by
  unfold decodeWord at h
  split at h
  next j hj => exact .inl (hj.trans h)
  next => exact .inr h

/-- Settles O1, by the decoder of the instruction's own port. -/
theorem decodeEncodeRoundTrip : Obligations.DecodeEncodeRoundTrip := by
  unfold Obligations.DecodeEncodeRoundTrip
  intro i hw
  cases hi : i.isHost with
  | true =>
    have hd := decodeHost_encode hw hi
    exact ⟨decodeWord_of_host hd, fun _ => hd, nofun⟩
  | false =>
    have hd := decodeMicro_encode hi
    exact ⟨decodeWord_of_micro hd, nofun, fun _ => ⟨hd, decodeHost_encode_micro hi⟩⟩

/-- Settles O2, from what each decoder reads. -/
theorem decodedWordIsItsEncoding : Obligations.DecodedWordIsItsEncoding := by
  unfold Obligations.DecodedWordIsItsEncoding
  intro cw i h
  rcases decodeWord_eq_some h with h | h
  · exact (decodeHost_eq_some_iff.mp h).2
  · obtain ⟨hi, he⟩ := decodeMicro_eq_some_iff.mp h
    exact ⟨wellFormed_of_micro hi, he⟩

/-- A word that the command port does not decode is refused where it waits first, whatever runs the
instructions (30_encoding.md R85). -/
theorem stepBy_command_reserved {run : Instr → State → Host.Outcome State Fault Refusal} {s : State}
    {rest : List Event} {cw : CommandWord} {inp : Memory} (hp : s.pending = .command cw inp :: rest)
    (hd : decodeHost cw = none) : stepBy run s = .refused .reservedWord := by
  simp only [stepBy, hp, accept, acceptCommand, hd]

/-- Settles O4, from the cases of R85 on the word's fields. -/
theorem reservedWordsAreRefused : Obligations.ReservedWordsAreRefused := by
  unfold Obligations.ReservedWordsAreRefused
  rintro cw op arg n rfl rfl rfl
  refine ⟨?_, fun hd s inp rest hp => stepBy_command_reserved hp hd⟩
  rw [decodeHost_eq_none_iff, isReserved_iff, opField_toNat, argField_toNat, nField_toNat]

/-- Settles O5, by the decoders on the eleven words. -/
theorem knownWordsDecode : Obligations.KnownWordsDecode := by
  unfold Obligations.KnownWordsDecode
  decide

theorem resOfCode_code (r : Res) : Res.ofCode (Res.code r) = r := by cases r <;> rfl

theorem algOfCode_algCode (a : Alg) : algOfCode (algCode a) = some a := by cases a <;> rfl

/-- The codes above that of the last variant name none (30_encoding.md R84). -/
theorem algOfCode_eq_none {c : BitVec 3} (h : 5 ≤ c.toNat) : algOfCode c = none := by
  revert c
  decide

/-- Settles O54, code by code. -/
theorem resultAndVariantCodes : Obligations.ResultAndVariantCodes := by
  unfold Obligations.ResultAndVariantCodes
  exact ⟨rfl, rfl, resOfCode_code, rfl, algOfCode_algCode, fun _ => algOfCode_eq_none⟩

/-- Settles O55: each expansion is the one of the table in R89. -/
theorem pseudoCommandExpansions : Obligations.PseudoCommandExpansions := by
  unfold Obligations.PseudoCommandExpansions
  exact fun _ _ => ⟨rfl, rfl, rfl, rfl⟩

end Sys2Proof.Machine
end

section
/-! ## The opcode table (30_encoding.md R91) -/

namespace Sys2Proof.Machine

/-- A row with every bit of the mask set is selected by its own word alone. -/
theorem encode_of_selects_full {cw : CommandWord} {mnemonic : String} {i : Instr}
    (h : OpcodeRow.selects ⟨mnemonic, encode i, BitVec.allOnes 72⟩ cw = true) : encode i = cw := by
  have hand : cw &&& BitVec.allOnes 72 = encode i := beq_iff_eq.mp h
  rw [BitVec.and_allOnes] at hand
  exact hand.symm

/-- A row whose mask leaves `n` open is selected by the words of its `op` and `arg` alone. -/
theorem commandWord_of_selects_open {cw : CommandWord} {mnemonic : String} {op arg : BitVec 4}
    (h : OpcodeRow.selects ⟨mnemonic, commandWord op arg 0#64, 0xff0000000000000000#72⟩ cw = true) :
    commandWord op arg (nField cw) = cw := by
  have hcw := Laws.OpcodeRow.selects_open (opField cw) (argField cw) (nField cw) mnemonic _ rfl
  rw [commandWord_fields] at hcw
  simp only [OpcodeRow.selects, beq_iff_eq] at h hcw
  have he : commandWord op arg 0#64 = commandWord (opField cw) (argField cw) 0#64 := h.symm.trans hcw
  have hop := congrArg opField he
  have harg := congrArg argField he
  simp only [opField_commandWord, argField_commandWord] at hop harg
  rw [hop, harg, commandWord_fields]

/-- A word that selects a row of the host's table is the word of the row's command. -/
theorem exists_encode_of_hostRow {cw : CommandWord} : ∀ r ∈ hostRows, r.selects cw = true →
    ∃ i : Instr, i.isHost = true ∧ i.WellFormed ∧ i.mnemonic = r.mnemonic ∧ encode i = cw := by
  simp only [hostRows, List.forall_mem_cons, List.not_mem_nil, false_imp_iff, implies_true, and_true]
  exact ⟨fun h => ⟨.selectSha1, rfl, rfl, rfl, encode_of_selects_full h⟩,
    fun h => ⟨.selectSha224, rfl, rfl, rfl, encode_of_selects_full h⟩,
    fun h => ⟨.selectSha256, rfl, rfl, rfl, encode_of_selects_full h⟩,
    fun h => ⟨.selectSha384, rfl, rfl, rfl, encode_of_selects_full h⟩,
    fun h => ⟨.selectSha512, rfl, rfl, rfl, encode_of_selects_full h⟩,
    fun h => ⟨.init, rfl, rfl, rfl, encode_of_selects_full h⟩,
    fun h => ⟨.update (nField cw).toNat, rfl, fitsOperand_toNat _, rfl,
      (encode_update_toNat _).trans (commandWord_of_selects_open h)⟩,
    fun h => ⟨.finish (nField cw).toNat, rfl, fitsOperand_toNat _, rfl,
      (encode_finish_toNat _).trans (commandWord_of_selects_open h)⟩⟩

/-- A word that selects a row of the sequencer's table is the word of the row's micro-operation. -/
theorem exists_encode_of_microRow {cw : CommandWord} : ∀ r ∈ microRows, r.selects cw = true →
    ∃ i : Instr, i.isHost = false ∧ i.mnemonic = r.mnemonic ∧ encode i = cw := by
  simp only [microRows, List.forall_mem_cons, List.not_mem_nil, false_imp_iff, implies_true, and_true]
  exact ⟨fun h => ⟨.padf, rfl, rfl, encode_of_selects_full h⟩,
    fun h => ⟨.padl, rfl, rfl, encode_of_selects_full h⟩,
    fun h => ⟨.sched1, rfl, rfl, encode_of_selects_full h⟩,
    fun h => ⟨.cmp1, rfl, rfl, encode_of_selects_full h⟩,
    fun h => ⟨.sched2w32, rfl, rfl, encode_of_selects_full h⟩,
    fun h => ⟨.cmp2w32, rfl, rfl, encode_of_selects_full h⟩,
    fun h => ⟨.sched2w64, rfl, rfl, encode_of_selects_full h⟩,
    fun h => ⟨.cmp2w64, rfl, rfl, encode_of_selects_full h⟩,
    fun h => ⟨.ser, rfl, rfl, encode_of_selects_full h⟩⟩

theorem decodeHost_of_hostRow {cw : CommandWord} {r : OpcodeRow} (hr : r ∈ hostRows)
    (h : r.selects cw = true) : ∃ i, decodeHost cw = some i ∧ i.mnemonic = r.mnemonic := by
  obtain ⟨i, hi, hw, hm, rfl⟩ := exists_encode_of_hostRow r hr h
  exact ⟨i, decodeHost_encode hw hi, hm⟩

theorem decodeMicro_of_microRow {cw : CommandWord} {r : OpcodeRow} (hr : r ∈ microRows)
    (h : r.selects cw = true) : ∃ i, decodeMicro cw = some i ∧ i.mnemonic = r.mnemonic := by
  obtain ⟨i, hi, hm, rfl⟩ := exists_encode_of_microRow r hr h
  exact ⟨i, decodeMicro_encode hi, hm⟩

theorem decodeWord_of_row {cw : CommandWord} {r : OpcodeRow} (hr : r ∈ hostRows ++ microRows)
    (h : r.selects cw = true) : ∃ i, decodeWord cw = some i ∧ i.mnemonic = r.mnemonic := by
  rcases List.mem_append.mp hr with hr | hr
  · exact (decodeHost_of_hostRow hr h).imp fun _ => And.imp_left decodeWord_of_host
  · exact (decodeMicro_of_microRow hr h).imp fun _ => And.imp_left decodeWord_of_micro

/-- The word of every well-formed instruction selects the row of its mnemonic on its port. -/
theorem encode_selects_row (i : Instr) : Laws.OpcodeRow.Statement i := by
  cases i with
  | selectSha1 => exact Laws.OpcodeRow.selectSha1
  | selectSha224 => exact Laws.OpcodeRow.selectSha224
  | selectSha256 => exact Laws.OpcodeRow.selectSha256
  | selectSha384 => exact Laws.OpcodeRow.selectSha384
  | selectSha512 => exact Laws.OpcodeRow.selectSha512
  | init => exact Laws.OpcodeRow.init
  | update n => exact Laws.OpcodeRow.update n
  | finish outlen => exact Laws.OpcodeRow.finish outlen
  | padf => exact Laws.OpcodeRow.padf
  | padl => exact Laws.OpcodeRow.padl
  | sched1 => exact Laws.OpcodeRow.sched1
  | cmp1 => exact Laws.OpcodeRow.cmp1
  | sched2w32 => exact Laws.OpcodeRow.sched2w32
  | cmp2w32 => exact Laws.OpcodeRow.cmp2w32
  | sched2w64 => exact Laws.OpcodeRow.sched2w64
  | cmp2w64 => exact Laws.OpcodeRow.cmp2w64
  | ser => exact Laws.OpcodeRow.ser

theorem rowsOf_host {i : Instr} (hi : i.isHost = true) : Laws.OpcodeRow.rowsOf i = hostRows := if_pos hi

theorem rowsOf_micro {i : Instr} (hi : i.isHost = false) : Laws.OpcodeRow.rowsOf i = microRows :=
  if_neg (by rw [hi]; exact Bool.false_ne_true)

theorem row_mnemonics_distinct :
    (hostRows ++ microRows).Pairwise fun r q => r.mnemonic ≠ q.mnemonic := by
  decide

/-- Two different rows are selected by no word: it would decode to two mnemonics. -/
theorem rows_disjoint : (hostRows ++ microRows).Pairwise
    fun r q => ∀ cw : CommandWord, ¬ (r.selects cw = true ∧ q.selects cw = true) := by
  refine row_mnemonics_distinct.imp_of_mem fun {r q} hr hq hne cw ⟨hrs, hqs⟩ => hne ?_
  obtain ⟨i, hi, hir⟩ := decodeWord_of_row hr hrs
  obtain ⟨j, hj, hjq⟩ := decodeWord_of_row hq hqs
  obtain rfl : i = j := Option.some.inj (hi.symm.trans hj)
  exact hir.symm.trans hjq

/-- Settles O3: what a decoder reads is an encoding, which selects its row, and a word that selects a row is
the encoding of the row's instruction. -/
theorem decodersFollowOpcodeTable : Obligations.DecodersFollowOpcodeTable := by
  unfold Obligations.DecodersFollowOpcodeTable
  refine ⟨fun cw i h => ?_, fun _ _ => decodeHost_of_hostRow, fun cw i h => ?_,
    fun _ _ => decodeMicro_of_microRow, rows_disjoint⟩
  · obtain ⟨hi, hw, rfl⟩ := decodeHost_eq_some_iff.mp h
    exact rowsOf_host hi ▸ encode_selects_row i hw
  · obtain ⟨hi, rfl⟩ := decodeMicro_eq_some_iff.mp h
    exact rowsOf_micro hi ▸ encode_selects_row i (wellFormed_of_micro hi)

end Sys2Proof.Machine
end

section
/-! ## Word addition and rotation (40_word_arithmetic.md R111 to R113) -/

namespace Sys2Proof.Machine

theorem toNat_addW {w : Nat} (x y : BitVec w) : (addW x y).toNat = (x.toNat + y.toNat) % 2 ^ w :=
  BitVec.toNat_add x y

@[simp] theorem sumW_nil {w : Nat} : sumW ([] : List (BitVec w)) = 0#w := rfl

@[simp] theorem sumW_cons {w : Nat} (x : BitVec w) (xs : List (BitVec w)) :
    sumW (x :: xs) = addW x (sumW xs) := rfl

theorem toNat_sumW {w : Nat} (xs : List (BitVec w)) :
    (sumW xs).toNat = (xs.map BitVec.toNat).sum % 2 ^ w := by
  induction xs with
  | nil => simp
  | cons x xs ih => rw [sumW_cons, toNat_addW, ih, Nat.add_mod_mod, List.map_cons, List.sum_cons]

section
variable {w r i : Nat} (x : BitVec w)

/-- An amount below the width is not reduced (R112). -/
theorem rotl_of_lt (hr : r < w) : rotl x r = (x <<< r) ||| (x >>> (w - r)) := by
  rw [rotl, Nat.mod_eq_of_lt hr]

/-- An amount below the width is not reduced (R113). -/
theorem rotr_of_lt (hr : r < w) : rotr x r = (x >>> r) ||| (x <<< (w - r)) := by
  rw [rotr, Nat.mod_eq_of_lt hr]

theorem rotl_eq_rotateLeft (r : Nat) : rotl x r = x.rotateLeft r := BitVec.rotateLeft_def.symm

theorem rotr_eq_rotateRight (r : Nat) : rotr x r = x.rotateRight r := BitVec.rotateRight_def.symm

theorem getLsbD_rotl (hr : r < w) (hi : i < w) :
    (rotl x r).getLsbD i = x.getLsbD ((i + w - r) % w) := by
  rw [rotl_eq_rotateLeft, BitVec.getLsbD_rotateLeft_of_le hr]
  by_cases h : i < r
  · have hmod : (i + w - r) % w = w - r + i := by rw [Nat.mod_eq_of_lt (by omega)]; omega
    simp [h, hmod]
  · have hmod : (i + w - r) % w = i - r := by
      rw [show i + w - r = i - r + w by omega, Nat.add_mod_right, Nat.mod_eq_of_lt (by omega)]
    simp [h, hi, hmod]

theorem getLsbD_rotr (hr : r < w) (hi : i < w) :
    (rotr x r).getLsbD i = x.getLsbD ((i + r) % w) := by
  rw [rotr_eq_rotateRight, BitVec.getLsbD_rotateRight_of_lt hr]
  by_cases h : i < w - r
  · have hmod : (i + r) % w = r + i := by rw [Nat.mod_eq_of_lt (by omega), Nat.add_comm]
    simp [h, hmod]
  · have hmod : (i + r) % w = i - (w - r) := by
      rw [Nat.mod_eq_sub_mod (by omega), Nat.mod_eq_of_lt (by omega)]; omega
    simp [h, hi, hmod]

theorem rotl_eq_rotr_sub (h0 : 0 < r) (hr : r < w) : rotl x r = rotr x (w - r) := by
  rw [rotl_of_lt x hr, rotr_of_lt x (by omega), Nat.sub_sub_self hr.le, BitVec.or_comm]

/-- The two turns take bit `i` to `i + r` and back again, modulo the width. -/
theorem rotr_rotl (hr : r < w) : rotr (rotl x r) r = x := by
  refine BitVec.eq_of_getLsbD_eq fun i hi => ?_
  have hback : ((i + r) % w + w - r) % w = i := by
    rw [Nat.add_sub_assoc hr.le, Nat.mod_add_mod, Nat.add_assoc, Nat.add_sub_cancel' hr.le,
      Nat.add_mod_right, Nat.mod_eq_of_lt hi]
  rw [getLsbD_rotr _ hr hi, getLsbD_rotl x hr (Nat.mod_lt _ (by omega)), hback]

end

/-- Settles O34, from the rules of addition and of the two rotations. -/
theorem additionWrapsAndRotationsTurn : Obligations.AdditionWrapsAndRotationsTurn := by
  unfold Obligations.AdditionWrapsAndRotationsTurn
  intro w x y
  refine ⟨toNat_addW x y, toNat_sumW, fun r h0 hr => ?_⟩
  exact ⟨rotl_of_lt x hr, rotr_of_lt x hr, fun _ => getLsbD_rotl x hr, fun _ => getLsbD_rotr x hr,
    rotl_eq_rotr_sub x h0 hr, rotr_rotl x hr⟩

end Sys2Proof.Machine
end

section
/-! ## Big-endian load and store (40_word_arithmetic.md R117, R118) -/

namespace Sys2Proof.Machine

theorem beLoad_append_byte (w : Nat) (bs : List Byte) (b : Byte) :
    beLoad w (bs ++ [b]) = (beLoad w bs <<< 8) ||| fromByte w b := by
  simp [beLoad]

/-- The last byte of a store is the low byte of the word; the bytes before it store the rest. -/
theorem beStore_succ {w : Nat} (k : Nat) (v : BitVec w) :
    beStore (k + 1) v = beStore k (v >>> 8) ++ [v.setWidth 8] := by
  have hbyte : ∀ i ∈ List.range k, (v >>> (8 * (k - i))).setWidth 8
      = ((v >>> 8) >>> (8 * (k - 1 - i))).setWidth 8 := by
    intro i hi
    have hi := List.mem_range.mp hi
    rw [← BitVec.shiftRight_add, show 8 + 8 * (k - 1 - i) = 8 * (k - i) by omega]
  simp [beStore, List.range_succ, List.map_congr_left hbyte]

/-- The load shifts a byte in below what it holds, as long as the word is wide enough. -/
theorem toNat_beLoad_append_byte {w : Nat} {bs : List Byte} (b : Byte)
    (hv : (beLoad w bs).toNat < 2 ^ (8 * bs.length)) (hw : 8 * (bs.length + 1) ≤ w) :
    (beLoad w (bs ++ [b])).toNat = (beLoad w bs).toNat * 2 ^ 8 + b.toNat := by
  have hpow : 2 ^ (8 * bs.length) * 2 ^ 8 ≤ 2 ^ w := by
    rw [← Nat.pow_add]; exact Nat.pow_le_pow_right (by decide) hw
  have hshift : (beLoad w bs).toNat <<< 8 % 2 ^ w = (beLoad w bs).toNat <<< 8 := by
    apply Nat.mod_eq_of_lt; rw [Nat.shiftLeft_eq]; omega
  have hbyte : b.toNat % 2 ^ w = b.toNat :=
    Nat.mod_eq_of_lt (b.isLt.trans_le (Nat.pow_le_pow_right (by decide) (by omega)))
  rw [beLoad_append_byte, fromByte, BitVec.toNat_or, BitVec.toNat_shiftLeft, BitVec.toNat_setWidth,
    hshift, hbyte, ← Nat.shiftLeft_add_eq_or_of_lt b.isLt, Nat.shiftLeft_eq]

theorem toNat_beLoad_lt {w : Nat} {bs : List Byte} (hw : 8 * bs.length ≤ w) :
    (beLoad w bs).toNat < 2 ^ (8 * bs.length) := by
  induction bs using List.reverseRecOn with
  | nil => simp [beLoad]
  | append_singleton bs b ih =>
    rw [List.length_append, List.length_singleton] at hw ⊢
    have hv := ih (by omega)
    have hpow : 2 ^ (8 * (bs.length + 1)) = 2 ^ (8 * bs.length) * 2 ^ 8 := by rw [← Nat.pow_add]; rfl
    have hb := b.isLt
    rw [toNat_beLoad_append_byte b hv hw, hpow]
    omega

/-- The number a list of bytes stands for, the first byte most significant (R117). -/
theorem toNat_beLoad {w : Nat} {bs : List Byte} (hw : 8 * bs.length ≤ w) :
    (beLoad w bs).toNat = ((List.range bs.length).map fun i =>
      (bs.getD i 0#8).toNat * 2 ^ (8 * (bs.length - 1 - i))).sum := by
  induction bs using List.reverseRecOn with
  | nil => simp [beLoad]
  | append_singleton bs b ih =>
    rw [List.length_append, List.length_singleton] at hw ⊢
    have hterm : ∀ i ∈ List.range bs.length,
        ((bs ++ [b]).getD i 0#8).toNat * 2 ^ (8 * (bs.length - i))
          = (bs.getD i 0#8).toNat * 2 ^ (8 * (bs.length - 1 - i)) * 2 ^ 8 := by
      intro i hi
      have hi := List.mem_range.mp hi
      rw [List.getD_append _ _ _ _ hi, Nat.mul_assoc, ← Nat.pow_add,
        show 8 * (bs.length - 1 - i) + 8 = 8 * (bs.length - i) by omega]
    rw [toNat_beLoad_append_byte b (toNat_beLoad_lt (by omega)) hw, ih (by omega), List.range_succ,
      List.map_append, List.sum_append, Nat.add_sub_cancel, List.map_congr_left hterm,
      List.sum_map_mul_right]
    simp

theorem beStore_beLoad {w : Nat} {bs : List Byte} (hw : 8 * bs.length ≤ w) :
    beStore bs.length (beLoad w bs) = bs := by
  induction bs using List.reverseRecOn with
  | nil => simp [beStore]
  | append_singleton bs b ih =>
    rw [List.length_append, List.length_singleton] at hw ⊢
    have hload := toNat_beLoad_append_byte b (toNat_beLoad_lt (by omega)) hw
    have hb := b.isLt
    have hrest : beLoad w (bs ++ [b]) >>> 8 = beLoad w bs := by
      apply BitVec.eq_of_toNat_eq
      rw [BitVec.toNat_ushiftRight, hload, Nat.shiftRight_eq_div_pow]
      omega
    have hlast : (beLoad w (bs ++ [b])).setWidth 8 = b := by
      apply BitVec.eq_of_toNat_eq
      rw [BitVec.toNat_setWidth, hload]
      omega
    rw [beStore_succ, hrest, hlast, ih (by omega)]

/-- The load of a store of `k` bytes is the low `8k` bits of the word. -/
theorem toNat_beLoad_beStore {w k : Nat} (v : BitVec w) (hw : 8 * k ≤ w) :
    (beLoad w (beStore k v)).toNat = v.toNat % 2 ^ (8 * k) := by
  induction k generalizing v with
  | zero => simp [beLoad, beStore, Nat.mod_one]
  | succ k ih =>
    have hlen : (beStore k (v >>> 8)).length = k := length_beStore k _
    rw [beStore_succ, toNat_beLoad_append_byte _ (toNat_beLoad_lt (by omega)) (by omega),
      ih _ (by omega), BitVec.toNat_ushiftRight, BitVec.toNat_setWidth, Nat.shiftRight_eq_div_pow,
      show 2 ^ (8 * (k + 1)) = 2 ^ 8 * 2 ^ (8 * k) by rw [← Nat.pow_add, Nat.mul_succ, Nat.add_comm],
      Nat.mod_mul]
    omega

/-- Settles O35, from the value of a load and the two round trips. -/
theorem bigEndianLoadAndStoreInvert : Obligations.BigEndianLoadAndStoreInvert := by
  unfold Obligations.BigEndianLoadAndStoreInvert
  intro k v bs
  refine ⟨length_beStore k v, fun i hi => getD_beStore v hi, ?_, ?_, ?_⟩
  · rintro rfl
    exact toNat_beLoad le_rfl
  · apply BitVec.eq_of_toNat_eq
    rw [toNat_beLoad_beStore v le_rfl, Nat.mod_eq_of_lt v.isLt]
  · rintro rfl
    exact beStore_beLoad le_rfl

end Sys2Proof.Machine
end

section
/-! ## The streaming commands: where they complete and where they are refused (41_streaming_engine.md R126) -/

namespace Sys2Proof.Machine

section
variable {s : State} {a : Alg}

theorem execInit_refused {r : Refusal} (h : initRefusal s.phase = some r) : execInit s = .refused r := by
  rw [execInit, h]

theorem execUpdate_refused {r : Refusal} (n : Nat) (h : useRefusal s.phase = some r) :
    execUpdate n s = .refused r := by
  rw [execUpdate, h]

theorem execFinishAt_refused {lr : Config.LenReserve} {r : Refusal} (outlen : Nat)
    (h : useRefusal s.phase = some r) : execFinishAt lr outlen s = .refused r := by
  rw [execFinishAt, h]

theorem execUpdate_overflow {n : Nat} (hp : s.phase = .ready) (ha : s.alg = some a)
    (hc : 2 ^ 64 ≤ s.count.toNat + n) : execUpdate n s = .refused .countOverflow := by
  have hn : n ≠ 0 := by
    rintro rfl
    exact absurd s.count.isLt (by omega)
  rw [execUpdate, useRefusal_none.mpr hp, ha]
  exact (if_neg hn).trans (if_neg (by omega))

theorem execUpdate_zero (hp : s.phase = .ready) (ha : s.alg = some a) :
    execUpdate 0 s = .next (s.answer .ok) :=
  execUpdate_next.mpr ⟨hp, a, ha, .inl ⟨rfl, rfl⟩⟩

theorem execUpdate_pos {n : Nat} (hp : s.phase = .ready) (ha : s.alg = some a) (hn : 0 < n)
    (hc : s.count.toNat + n < 2 ^ 64) : execUpdate n s = .next (absorb (blockSize a) n s) :=
  execUpdate_next.mpr ⟨hp, a, ha, .inr ⟨hn.ne', hc, rfl⟩⟩

/-- To absorb no byte is to answer OK. -/
theorem absorb_zero {size : Nat} (hf : s.fill < size) : absorb size 0 s = s.answer .ok := by
  rw [absorb, if_pos (by simpa using hf)]
  simp [appendInput, State.advance, State.input, Memory.readBytes, Memory.writeBytes]

/-- Where `fill` is in its range, `UPDATE` absorbs its input whatever its length: the case `n = 0` of
41_streaming_engine.md R129 needs no exception. -/
theorem execUpdate_of_fill_lt {n : Nat} (hp : s.phase = .ready) (ha : s.alg = some a)
    (hf : s.fill < blockSize a) (hc : s.count.toNat + n < 2 ^ 64) :
    execUpdate n s = .next (absorb (blockSize a) n s) := by
  obtain rfl | hn := Nat.eq_zero_or_pos n
  · rw [execUpdate_zero hp ha, absorb_zero hf]
  · exact execUpdate_pos hp ha hn hc

theorem absorb_count_toNat {size n : Nat} (hc : s.count.toNat + n < 2 ^ 64) :
    (absorb size n s).count.toNat = s.count.toNat + n := by
  rw [absorb_count, advance_count, BitVec.toNat_ofNat, Nat.mod_eq_of_lt hc]

/-- What `UPDATE` may write (41_streaming_engine.md R131 to R135). -/
theorem absorb_frame (size n : Nat) (s : State) :
    absorb size n s = { s with
      algH := (absorb size n s).algH, count := (absorb size n s).count, fill := (absorb size n s).fill,
      buf := (absorb size n s).buf, res := .ok, sched := (absorb size n s).sched,
      work := (absorb size n s).work, padReport := (absorb size n s).padReport,
      src := (absorb size n s).src, outlen := (absorb size n s).outlen } := by
  rw [← absorb_phase size n s, ← absorb_inp size n s, ← absorb_out size n s, ← absorb_pending size n s,
    ← absorb_freeCtr size n s, ← absorb_res size n s]

/-- `FINISH` below the overflow closes the context (41_streaming_engine.md R142). -/
theorem finalize_phase_res {lr : Config.LenReserve} (outlen : Nat) (ha : s.alg = some a)
    (hc : s.count.toNat < 2 ^ 61) :
    (finalize lr outlen s).phase = .done ∧ (finalize lr outlen s).res = .ok := by
  obtain ⟨p, heq, -⟩ := finalize_completes (lr := lr) outlen ha hc
  rw [heq]
  exact ⟨rfl, rfl⟩

theorem eq_initContext_of_init_or_select {i : Instr} {t : State}
    (hi : i = .init ∧ s.alg = some a ∨ i = selectInstr a) (h : exec i s = .next t) :
    t = initContext a s := by
  obtain ⟨rfl, ha⟩ | rfl := hi
  · obtain ⟨-, b, hb, rfl⟩ := execInit_next.mp h
    rw [Option.some.inj (ha.symm.trans hb)]
  · rw [exec_select] at h
    cases h
    rfl

end

/-- Settles O19: the empty `UPDATE` and `absorb`, by the frame of each. -/
theorem updateNeverFails : Obligations.UpdateNeverFails := by
  unfold Obligations.UpdateNeverFails
  intro n s t h
  obtain ⟨hp, a, ha, ⟨rfl, rfl⟩ | ⟨-, hc, rfl⟩⟩ := execUpdate_next.mp h
  · exact ⟨rfl, hp, rfl, rfl, rfl⟩
  · refine ⟨absorb_res _ _ _, (absorb_phase _ _ _).trans hp, absorb_alg _ _ _, absorb_count_toNat hc, ?_⟩
    rw [absorb_res]
    exact absorb_frame _ _ _

/-- Settles O8: the phase decides the refusals, and in the legal phases the command completes. -/
theorem legalPhases : Obligations.LegalPhases := by
  unfold Obligations.LegalPhases
  intro s
  refine ⟨fun hp => execInit_refused (congrArg initRefusal hp), ?_,
    fun n hp => execUpdate_refused n (congrArg useRefusal hp),
    fun n hp => execUpdate_refused n (congrArg useRefusal hp),
    fun n hp => execUpdate_refused n (congrArg useRefusal hp), ?_,
    fun n hp => execFinishAt_refused n (congrArg useRefusal hp),
    fun n hp => execFinishAt_refused n (congrArg useRefusal hp),
    fun n hp => execFinishAt_refused n (congrArg useRefusal hp), ?_⟩
  · intro hp ha
    obtain ⟨a, ha⟩ := Option.ne_none_iff_exists'.mp ha
    exact ⟨_, execInit_next.mpr ⟨hp, a, ha, rfl⟩, rfl, rfl⟩
  · intro n hp ha hc
    obtain ⟨a, ha⟩ := Option.ne_none_iff_exists'.mp ha
    obtain ⟨t, ht⟩ : ∃ t, exec (.update n) s = .next t := by
      obtain rfl | hn := Nat.eq_zero_or_pos n
      · exact ⟨_, execUpdate_zero hp ha⟩
      · exact ⟨_, execUpdate_pos hp ha hn hc⟩
    obtain ⟨hres, hphase, -⟩ := updateNeverFails n s t ht
    exact ⟨t, ht, hphase, hres⟩
  · intro n hp ha
    obtain ⟨a, ha⟩ := Option.ne_none_iff_exists'.mp ha
    refine ⟨_, execFinish_next.mpr ⟨hp, ⟨a, ha⟩, rfl⟩, ?_⟩
    by_cases hc : s.count.toNat < 2 ^ 61
    · exact .inl (finalize_phase_res n ha hc)
    · rw [finalize_overflow ha (by omega)]
      exact .inr ⟨rfl, rfl⟩

/-- Settles O11: `INIT` is `initContext` of the selected variant. -/
theorem initResetsContext : Obligations.InitResetsContext := by
  unfold Obligations.InitResetsContext
  intro a s hp ha
  exact ⟨initContext a s, execInit_next.mpr ⟨hp, a, ha, rfl⟩, rfl, rfl, Memory.read_zeros, rfl,
    initial_alg a, rfl, rfl, rfl⟩

/-- Settles O14: the context that `initContext` leaves depends on the variant alone. -/
theorem initForgetsThePast : Obligations.InitForgetsThePast := by
  unfold Obligations.InitForgetsThePast
  intro a s u t v i j hi hj ht hv
  rw [eq_initContext_of_init_or_select hi ht, eq_initContext_of_init_or_select hj hv]
  exact ⟨rfl, rfl, rfl, rfl, rfl, rfl⟩

/-- Settles O15: an empty `UPDATE` only answers. -/
theorem emptyUpdateChangesNothing : Obligations.EmptyUpdateChangesNothing := by
  unfold Obligations.EmptyUpdateChangesNothing
  intro s hp ha
  obtain ⟨a, ha⟩ := Option.ne_none_iff_exists'.mp ha
  exact execUpdate_zero hp ha

/-- Settles O16: such an `UPDATE` is not empty, since `count` has 64 bits, and so is refused by the last check. -/
theorem countOverflowIsRefused : Obligations.CountOverflowIsRefused := by
  unfold Obligations.CountOverflowIsRefused
  intro n s hp ha hc
  obtain ⟨a, ha⟩ := Option.ne_none_iff_exists'.mp ha
  exact execUpdate_overflow hp ha hc

/-- Settles O17: such an `UPDATE` appends and compresses nothing. -/
theorem updateWithoutFullBlock : Obligations.UpdateWithoutFullBlock := by
  unfold Obligations.UpdateWithoutFullBlock
  intro a n s hp ha hw hn hf hc
  refine ⟨absorb (blockSize a) n s, execUpdate_pos hp ha hn hc, ?_, absorb_count_toNat hc, ?_,
    read_absorb_short n s hw hf⟩
  · rw [absorb, if_pos hf]
    rfl
  · rw [absorb_fill n s (by omega), Nat.mod_eq_of_lt hf]

/-- Settles O18, from the laws of `absorb` where it completes the buffer. -/
theorem updateCompressesWholeBlocks : Obligations.UpdateCompressesWholeBlocks := by
  unfold Obligations.UpdateCompressesWholeBlocks
  intro a n s hp ha hw hf hn hc
  have hfill := absorb_fill n s hf
  refine ⟨absorb (blockSize a) n s, _, execUpdate_pos hp ha (by omega) hc, absorb_frame _ _ _, rfl, ?_,
    absorb_algH n s (bufSize_of_alg ha) hw hf, absorb_count_toNat hc, hfill, fun i => ?_⟩
  · simp [blocksOf]
  · rw [hfill]
    exact read_absorb_long n s hf hn i

end Sys2Proof.Machine
end

section
/-! ## What a context has absorbed (41_streaming_engine.md R128 to R135) -/

namespace Sys2Proof.Machine

/-- The bytes from an offset on of a range that was read. -/
theorem Memory.drop_readBytes {k n : Nat} (m : Memory) (a : Nat) (h : k ≤ n) :
    (m.readBytes a n).drop k = m.readBytes (a + k) (n - k) := by
  conv_lhs => rw [← Nat.add_sub_cancel' h, Memory.readBytes_add]
  exact List.drop_left' (Memory.length_readBytes _ _ _)

theorem initContext_absorbed (a : Alg) (s : State) : Absorbed a [] (initContext a s) where
  phase := rfl
  chaining := by rw [blocksOf_short (blockSize_pos a)]; rfl
  count := rfl
  fill := (Nat.zero_mod _).symm
  tail := by rw [tailOf_short (blockSize_pos a)]; rfl
  zero _ _ := Memory.read_zeros _

/-- Settles O21: both commands end in `initContext`. -/
theorem selectAbsorbsNothing : Obligations.SelectAbsorbsNothing := by
  unfold Obligations.SelectAbsorbsNothing
  rintro a s t (h | ⟨ha, h⟩)
  · exact eq_initContext_of_init_or_select (.inr rfl) h ▸ initContext_absorbed a s
  · exact eq_initContext_of_init_or_select (.inl ⟨rfl, ha⟩) h ▸ initContext_absorbed a s

/-- The bytes in `BUF` after an `UPDATE` are those after the last whole block of the bytes in `BUF` before it
followed by the new ones (41_streaming_engine.md R131, R134). -/
theorem absorb_tail {size : Nat} (n : Nat) {s : State} (hw : s.buf.wf) (hf : s.fill < size) :
    (absorb size n s).buf.readBytes 0 (absorb size n s).fill = tailOf size (s.pendingBytes n) := by
  rw [absorb_fill n s hf]
  by_cases h : s.fill + n < size
  · have hbuf : (absorb size n s).buf = s.buf.writeBytes s.fill (s.inp.readBytes 0 n) := by
      rw [absorb, if_pos h]
      rfl
    rw [Nat.mod_eq_of_lt h, tailOf_short (by simpa using h), hbuf,
      Memory.readBytes_append_writeBytes hw _ (by rw [Memory.length_readBytes])]
  · have hdiv := Nat.div_add_mod' (s.fill + n) size
    have hblock : size ≤ (s.fill + n) / size * size :=
      Nat.le_mul_of_pos_left _ (Nat.div_pos (by omega) (by omega))
    have hread : (absorb size n s).buf.readBytes 0 ((s.fill + n) % size)
        = s.inp.readBytes (n - (s.fill + n) % size) ((s.fill + n) % size) :=
      Memory.readBytes_congr fun i hi => by
        rw [Nat.zero_add, read_absorb_long n s hf (by omega), if_pos hi]
    rw [hread, tailOf, List.length_append, Memory.length_readBytes, Memory.length_readBytes,
      List.drop_append, Memory.length_readBytes, List.drop_eq_nil_of_le (by simp; omega), List.nil_append,
      Memory.drop_readBytes _ _ (by omega)]
    congr 1 <;> omega

/-- From the chaining value `x` on, the context of `s` has taken in the bytes `bytes` for the variant `a`: what
`Absorbed` says of a whole message, from any point of it on. -/
structure AbsorbedSince (a : Alg) (x : AlgH) (bytes : List Byte) (s : State) : Prop where
  alg : s.alg = some a
  wf : s.buf.wf
  chaining : s.algH = compressAll x (blocksOf (blockSize a) bytes)
  fill : s.fill = bytes.length % blockSize a
  tail : s.buf.readBytes 0 s.fill = tailOf (blockSize a) bytes
  zero : ∀ i, s.fill ≤ i → s.buf.read i = 0#8

section
variable {a : Alg} {x : AlgH} {bytes : List Byte} {s t : State}

/-- A message is what has been taken in from the initial vector on. -/
theorem Absorbed.since (h : Absorbed a bytes s) (hw : s.buf.wf) :
    AbsorbedSince a (AlgH.initial a) bytes s :=
  ⟨h.alg, hw, h.chaining, h.fill, h.tail, h.zero⟩

/-- From its own `H` on, a context has taken in the bytes that stand in `BUF`. -/
theorem absorbedSince_algH (ha : s.alg = some a) (hw : s.buf.wf) (hf : s.fill < blockSize a)
    (hz : ∀ i, s.fill ≤ i → s.buf.read i = 0#8) :
    AbsorbedSince a s.algH (s.buf.readBytes 0 s.fill) s where
  alg := ha
  wf := hw
  chaining := by rw [blocksOf_short (by simpa using hf)]; rfl
  fill := by rw [Memory.length_readBytes, Nat.mod_eq_of_lt hf]
  tail := (tailOf_short (by simpa using hf)).symm
  zero := hz

theorem AbsorbedSince.latchInput (h : AbsorbedSince a x bytes s) (inp : Memory) :
    AbsorbedSince a x bytes (s.latchInput inp) :=
  ⟨h.alg, h.wf, h.chaining, h.fill, h.tail, h.zero⟩

theorem AbsorbedSince.fill_lt (h : AbsorbedSince a x bytes s) : s.fill < blockSize a :=
  h.fill ▸ Nat.mod_lt _ (blockSize_pos a)

/-- `UPDATE` takes in its input after what the context took in before. -/
theorem AbsorbedSince.absorb (h : AbsorbedSince a x bytes s) (n : Nat) :
    AbsorbedSince a x (bytes ++ s.inp.readBytes 0 n) (absorb (blockSize a) n s) where
  alg := (absorb_alg _ _ _).trans h.alg
  wf := absorb_buf_wf n s h.wf
  chaining := by
    rw [absorb_algH n s (bufSize_of_alg h.alg) h.wf h.fill_lt, State.pendingBytes, h.tail, h.chaining,
      ← compressAll_append, ← blocksOf_append_tail (blockSize_pos a)]
  fill := by
    rw [absorb_fill n s h.fill_lt, h.fill, List.length_append, Memory.length_readBytes, Nat.mod_add_mod]
  tail := by
    rw [absorb_tail n h.wf h.fill_lt, State.pendingBytes, h.tail, ← tailOf_append_tail (blockSize_pos a)]
  zero _ hi := read_absorb_of_fill_le h.wf h.fill_lt h.zero hi

/-- What was taken in, and the chaining value it started from, fix `H`, `fill` and `BUF`. -/
theorem AbsorbedSince.unique (hs : AbsorbedSince a x bytes s) (ht : AbsorbedSince a x bytes t) :
    s.algH = t.algH ∧ s.fill = t.fill ∧ s.buf = t.buf := by
  have hfill : s.fill = t.fill := hs.fill.trans ht.fill.symm
  refine ⟨hs.chaining.trans ht.chaining.symm, hfill, Memory.ext_read hs.wf ht.wf fun i => ?_⟩
  by_cases hi : i < s.fill
  · have hbyte := congrArg (·.getD i 0#8) (hs.tail.trans ht.tail.symm)
    simpa only [Memory.getD_readBytes, Nat.zero_add, if_pos hi, if_pos (hfill ▸ hi)] using hbyte
  · rw [hs.zero i (by omega), ht.zero i (by omega)]

end

/-- Settles O22: `absorb` takes in its input, and `count` grows by its length. -/
theorem updateAbsorbsItsInput : Obligations.UpdateAbsorbsItsInput := by
  unfold Obligations.UpdateAbsorbsItsInput
  intro a msg n s h hw hc
  have hsince := h.since hw
  have hnew := hsince.absorb n
  refine ⟨absorb (blockSize a) n s, execUpdate_of_fill_lt h.phase h.alg hsince.fill_lt hc, hnew.wf, ?_⟩
  exact
    { phase := (absorb_phase _ _ _).trans h.phase
      chaining := hnew.chaining
      count := by
        rw [absorb_count_toNat hc, h.count, List.length_append, Memory.length_readBytes]
      fill := hnew.fill
      tail := hnew.tail
      zero := hnew.zero }

theorem Memory.readBytes_ofBytes (bs : List Byte) : (Memory.ofBytes bs).readBytes 0 bs.length = bs :=
  Memory.readBytes_writeBytes Memory.wf_zeros 0 bs

/-- Absorbing a byte string from `IN`. -/
theorem AbsorbedSince.absorb_ofBytes {a : Alg} {x : AlgH} {bytes : List Byte} {s : State}
    (h : AbsorbedSince a x bytes s) (bs : List Byte) :
    AbsorbedSince a x (bytes ++ bs)
      (Machine.absorb (blockSize a) bs.length (s.latchInput (Memory.ofBytes bs))) := by
  have habs := (h.latchInput (Memory.ofBytes bs)).absorb bs.length
  rwa [latchInput_inp, Memory.readBytes_ofBytes] at habs

/-- Settles O20: both ways take in the bytes in `BUF`, then `X`, then `Y`, from the same `H` on. -/
theorem chunkingInvariance : Obligations.ChunkingInvariance := by
  unfold Obligations.ChunkingInvariance
  intro s xs ys hs hp hc
  obtain ⟨a, ha⟩ := Option.ne_none_iff_exists'.mp (hs.context.selected (by simp [hp]))
  have hf : s.fill < blockSize a := bufSize_of_alg ha ▸ hs.context.fillBelow hp
  have hsince := absorbedSince_algH ha hs.memory.buf hf (hs.context.tailZero hp)
  have ht := hsince.absorb_ofBytes xs
  have hu := ht.absorb_ofBytes ys
  have hv := hsince.absorb_ofBytes (xs ++ ys)
  rw [List.append_assoc] at hu
  rw [List.length_append] at hv
  obtain ⟨halgH, hfill, hbuf⟩ := hu.unique hv
  have hcount : (absorb (blockSize a) xs.length (s.latchInput (Memory.ofBytes xs))).count.toNat
      = s.count.toNat + xs.length :=
    absorb_count_toNat (s := s.latchInput _) (show s.count.toNat + xs.length < 2 ^ 64 by omega)
  have hX := execUpdate_of_fill_lt (s := s.latchInput (Memory.ofBytes xs)) (n := xs.length) hp ha hf
    (show s.count.toNat + xs.length < 2 ^ 64 by omega)
  have hY := execUpdate_of_fill_lt (n := ys.length)
    (s := (absorb (blockSize a) xs.length (s.latchInput (Memory.ofBytes xs))).latchInput (Memory.ofBytes ys))
    ((absorb_phase _ _ _).trans hp) ht.alg ht.fill_lt (by rwa [latchInput_count, hcount])
  have hXY := execUpdate_of_fill_lt (s := s.latchInput (Memory.ofBytes (xs ++ ys)))
    (n := xs.length + ys.length) hp ha hf (show s.count.toNat + (xs.length + ys.length) < 2 ^ 64 by omega)
  refine ⟨_, _, _, hX, hY, hXY, halgH, ?_, hfill, hbuf, ?_, ?_⟩
  · simp only [absorb_count, advance_count, latchInput_count] at hcount ⊢
    rw [hcount, Nat.add_assoc]
  · simp
  · simp

end Sys2Proof.Machine
end

section
/-! ## `FINISH` and its micro-operations (41_streaming_engine.md R136 to R142) -/

namespace Sys2Proof.Machine

section
variable {lr : Config.LenReserve} {s : State} {a : Alg}

/-- What `FINISH` below the overflow may write. -/
theorem finalize_frame (outlen : Nat) (ha : s.alg = some a) (hc : s.count.toNat < 2 ^ 61) :
    finalize lr outlen s = { s with
      algH := (finalize lr outlen s).algH, fill := (finalize lr outlen s).fill,
      buf := (finalize lr outlen s).buf, out := (finalize lr outlen s).out, phase := .done, res := .ok,
      sched := (finalize lr outlen s).sched, work := (finalize lr outlen s).work,
      padReport := (finalize lr outlen s).padReport, src := (finalize lr outlen s).src,
      outlen := (finalize lr outlen s).outlen, freeCtr := (finalize lr outlen s).freeCtr } := by
  rcases finalize_cases lr outlen ha with ⟨hov, -⟩ | ⟨-, -, heq⟩ | ⟨-, -, heq⟩
  · omega
  · rw [heq]
    rfl
  · rw [heq]
    rfl

/-- The bytes of `OUT` after a `FINISH` below the overflow, from the `H` it leaves (41_streaming_engine.md R140,
45_digest_serializer.md R224). -/
theorem read_finalize_out_of_lt (outlen : Nat) (ha : s.alg = some a) (hw : s.out.wf)
    (hc : s.count.toNat < 2 ^ 61) (i : Nat) :
    (finalize lr outlen s).out.read i
      = if i < min outlen (digestSize a) then (finalize lr outlen s).algH.digest.getD i 0#8
        else s.out.read i := by
  obtain ⟨p, heq, hout, hoperand, -, halg⟩ := finalize_completes (lr := lr) outlen ha hc
  have hend : (finishDigest p).alg = some a := (finishDigest_alg p).trans (halg.trans ha)
  have hbytes : (finishDigest p).out = s.out.writeBytes 0 ((finishDigest p).algH.output outlen) := by
    rw [← hout, ← hoperand]
    rfl
  rw [heq, hbytes, read_writeBytes_output hend hw]

theorem exec_engineInstr (ha : s.alg = some a) : exec (engineInstr a) s = .next (s.compress s.src) := by
  cases a with
  | sha1 => exact execCmp1_next.mpr ⟨ha, rfl⟩
  | sha224 => exact execCmp2w32_next.mpr ⟨.inl ha, rfl⟩
  | sha256 => exact execCmp2w32_next.mpr ⟨.inr ha, rfl⟩
  | sha384 => exact execCmp2w64_next.mpr ⟨.inl ha, rfl⟩
  | sha512 => exact execCmp2w64_next.mpr ⟨.inr ha, rfl⟩

/-- The report of the first pass below the overflow. -/
theorem runPadF_report_of_lt (ha : s.alg = some a) (hc : s.count.toNat < 2 ^ 61) :
    (runPadF lr s).padReport = .done ∨ (runPadF lr s).padReport = .secondBlockNeeded := by
  have hs : s.algH.bufSize = blockSize a := bufSize_of_alg ha
  rw [runPadF_padReport, padF_report (hs ▸ blockSize_cases a), if_neg (by omega)]
  split
  · exact .inl rfl
  · exact .inr rfl

/-- `FINISH` after a first pass that completes the padding. -/
theorem finalize_of_done {outlen : Nat}
    (h : (runPadF lr (s.latchOutlen outlen)).padReport = .done) :
    finalize lr outlen s = finishDigest (runPadF lr (s.latchOutlen outlen)) := by
  simp only [finalize, h]

/-- `FINISH` after a first pass that asks for a second block: the finalization pass always completes. -/
theorem finalize_of_secondBlockNeeded {outlen : Nat} (ha : s.alg = some a)
    (h : (runPadF lr (s.latchOutlen outlen)).padReport = .secondBlockNeeded) :
    finalize lr outlen s
      = finishDigest (runPadL (betweenPasses (runPadF lr (s.latchOutlen outlen)))) := by
  have hsize : (betweenPasses (runPadF lr (s.latchOutlen outlen))).algH.bufSize = blockSize a :=
    (algH_compress_bufSize _ _).trans (bufSize_of_alg ha)
  have hpadl : (runPadL (betweenPasses (runPadF lr (s.latchOutlen outlen)))).padReport = .done := by
    rw [runPadL_padReport, padL_supported (hsize ▸ blockSize_cases a)]
  simp only [finalize, h, hpadl]

end

/-- Settles O26: the frame of `FINISH` and the bytes it writes. -/
theorem finishWritesTheDigest : Obligations.FinishWritesTheDigest := by
  unfold Obligations.FinishWritesTheDigest
  intro a outlen s hp ha hw hc
  exact ⟨finalize lenReserve outlen s, execFinish_next.mpr ⟨hp, ⟨a, ha⟩, rfl⟩,
    (finalize_alg _ _ ha).trans ha, finalize_frame outlen ha hc, read_finalize_out_of_lt outlen ha hw hc⟩

/-- Settles O28: `FINISH` branches on the report of `PADF`, and each branch is the micro-operations by which it
is defined. -/
theorem finishIsItsMicroOperations : Obligations.FinishIsItsMicroOperations := by
  unfold Obligations.FinishIsItsMicroOperations
  intro a outlen s hp ha hc
  have hfinish : exec (.finish outlen) s = .next (finalize lenReserve outlen s) :=
    execFinish_next.mpr ⟨hp, ⟨a, ha⟩, rfl⟩
  let p := runPadF lenReserve (s.latchOutlen outlen)
  have hq : (p.compress .buf).alg = some a := (algH_compress_alg _ _).trans ha
  have hu : ((runPadL (betweenPasses p)).compress .buf).alg = some a := (algH_compress_alg _ _).trans hq
  refine ⟨p, execPadf_next.mpr ⟨⟨a, ha⟩, rfl⟩, fun h => ?_, fun h => ?_, runPadF_report_of_lt ha hc⟩
  · refine ⟨p.compress .buf, runSer (p.compress .buf), exec_engineInstr (s := p.select .buf) ha,
      execSer_next.mpr ⟨⟨a, hq⟩, rfl⟩, ?_⟩
    rw [hfinish, finalize_of_done h]
    rfl
  · refine ⟨p.compress .buf, runPadL (betweenPasses p), (runPadL (betweenPasses p)).compress .buf, _,
      exec_engineInstr (s := p.select .buf) ha, execPadl_next.mpr ⟨⟨a, hq⟩, rfl⟩, exec_engineInstr hq,
      execSer_next.mpr ⟨⟨a, hu⟩, rfl⟩, ?_⟩
    rw [hfinish, finalize_of_secondBlockNeeded ha h]
    rfl

end Sys2Proof.Machine
end

section
/-! ## Padding: the two passes byte by byte, and the padded message (42_padding.md) -/

namespace Sys2Proof.Machine

/-! ### The passes -/

section
variable {size : Nat} (hs : size ≠ 64 ∧ size ≠ 128)
include hs

/-- `PADF` on another block size reports `Fail` and writes nothing, whatever the count (42_padding.md R151). -/
theorem padF_unsupported (lr : Config.LenReserve) (buf : Memory) (count : Nat) :
    padF lr size buf count = ⟨buf, .fail .badBlockSize⟩ := by
  rw [padF, if_pos hs]

/-- `PADL` on another block size reports `Fail` and writes nothing (42_padding.md R151). -/
theorem padL_unsupported (buf : Memory) (count : Nat) :
    padL size buf count = ⟨buf, .fail .badBlockSize⟩ := by
  rw [padL, if_pos hs]

end

section
variable {size : Nat} {buf : Memory} {count : Nat}

theorem padF_report_badBlockSize_iff {lr : Config.LenReserve} :
    (padF lr size buf count).report = .fail .badBlockSize ↔ size ≠ 64 ∧ size ≠ 128 := by
  refine ⟨fun h => ?_, fun hs => by rw [padF_unsupported hs]⟩
  by_contra hs
  rw [padF_report (by omega)] at h
  split_ifs at h
  cases h

theorem padL_report_badBlockSize_iff :
    (padL size buf count).report = .fail .badBlockSize ↔ size ≠ 64 ∧ size ≠ 128 := by
  refine ⟨fun h => ?_, fun hs => by rw [padL_unsupported hs]⟩
  by_contra hs
  rw [padL_supported (by omega)] at h
  cases h

end

/-- Settles O31: both passes check the block size before anything else. -/
theorem paddingRejectsOtherBlockSizes : Obligations.PaddingRejectsOtherBlockSizes := by
  unfold Obligations.PaddingRejectsOtherBlockSizes
  exact fun lr size buf count => ⟨padF_report_badBlockSize_iff, padL_report_badBlockSize_iff,
    fun hs => ⟨by rw [padF_unsupported hs], by rw [padL_unsupported hs]⟩⟩

/-- Settles O29: the overflow, and below it the pass at the default of the parameter, whose length field fits
from `off = B - 9` down. -/
theorem padfWritesMarkerAndLength : Obligations.PadfWritesMarkerAndLength := by
  unfold Obligations.PadfWritesMarkerAndLength
  rintro a size off s ha hw rfl rfl
  have hs := blockSize_cases a
  by_cases hc : s.count.toNat < 2 ^ 61
  · obtain ⟨t, hrun, hframe, hfits, hspills⟩ :=
      padfForEveryLenReserve lenReserve a _ _ s legal_lenReserve ha hw rfl rfl hc
    refine ⟨t, hrun, hframe, fun hov => by omega, fun _ hoff => hfits ((lenReserve_fits_iff hs).mpr hoff),
      fun _ hoff => hspills ?_⟩
    exact Nat.lt_of_not_le (mt (lenReserve_fits_iff hs).mp (by omega))
  · refine ⟨_, execAt_padf (lr := lenReserve) ha, rfl, fun hov => ?_, fun hlt => absurd hlt hc,
      fun hlt => absurd hlt hc⟩
    rw [padF_overflow hs hov]
    exact ⟨rfl, rfl⟩

/-- `PADL` on a selected variant writes `BUF` and the report as the finalization pass gives them. -/
theorem exec_padl {a : Alg} {s : State} (ha : s.alg = some a) :
    exec .padl s = .next (s.padded (padL (blockSize a) s.buf s.count.toNat)) := by
  rw [← bufSize_of_alg ha]
  exact execPadl_next.mpr ⟨⟨a, ha⟩, rfl⟩

/-- Settles O30, by the bytes of the finalization pass. -/
theorem padlWritesLengthField : Obligations.PadlWritesLengthField := by
  unfold Obligations.PadlWritesLengthField
  rintro a size s ha hw rfl
  have hs := blockSize_cases a
  refine ⟨_, exec_padl ha, ?_, fun i hi => ?_, fun hc i hlast hi => ?_⟩
  · rw [padL_supported hs]
    rfl
  · rw [padded_buf, read_padL hw hs, if_neg (by omega)]
  · rw [padded_buf, read_padL hw hs, if_pos ⟨hlast, hi⟩, getD_lengthField_at hs hc hi hlast]

/-- Settles O23: at the default of the parameter `execAt` is `exec`. -/
theorem finishEmitsDigestOfMessage : Obligations.FinishEmitsDigestOfMessage := by
  unfold Obligations.FinishEmitsDigestOfMessage
  intro a msg outlen s habs hw hout hlen
  rw [← execAt_lenReserve]
  exact digestForEveryLenReserve lenReserve a msg outlen s legal_lenReserve habs hw hout hlen

/-! ### The padded message -/

section
variable {lr : Config.LenReserve} {size : Nat}

/-- Padding depends on the parameter only through the fit test (42_padding.md R154). -/
theorem paddingOf_congr {lr' : Config.LenReserve} {length : Nat}
    (h : lr size ≤ size - (length % size + 1) ↔ lr' size ≤ size - (length % size + 1)) :
    paddingOf lr size length = paddingOf lr' size length := by
  simp only [paddingOf, h]

/-- The bytes after the last whole block and the padding fill one block or two. -/
theorem mod_add_length_paddingOf (hs : size = 64 ∨ size = 128) (hlr : 8 ≤ lr size) (length : Nat) :
    length % size + (paddingOf lr size length).length
      = (if lr size ≤ size - (length % size + 1) then 1 else 2) * size := by
  have hoff : length % size < size := Nat.mod_lt _ (by omega)
  by_cases hfit : lr size ≤ size - (length % size + 1)
  · rw [paddingOf, if_pos hfit, if_pos hfit]
    simp only [List.length_cons, List.length_append, length_zeroBytes, length_lengthField]
    omega
  · rw [paddingOf, if_neg hfit, if_neg hfit]
    simp only [List.length_cons, List.length_append, length_zeroBytes, length_lengthField]
    omega

theorem length_paddedMessage (hs : size = 64 ∨ size = 128) (hlr : 8 ≤ lr size) (msg : List Byte) :
    (paddedMessage lr size msg).length
      = (msg.length / size + if lr size ≤ size - (msg.length % size + 1) then 1 else 2) * size := by
  calc (paddedMessage lr size msg).length
      = msg.length / size * size + (msg.length % size + (paddingOf lr size msg.length).length) := by
        rw [paddedMessage, List.length_append, ← Nat.add_assoc, Nat.div_add_mod']
    _ = _ := by rw [mod_add_length_paddingOf hs hlr, Nat.add_mul]

end

theorem length_blocksOf (size : Nat) (bytes : List Byte) :
    (blocksOf size bytes).length = bytes.length / size := by
  simp [blocksOf]

/-- Settles O32, from the length of the padded message. -/
theorem paddedMessageFillsBlocks : Obligations.PaddedMessageFillsBlocks := by
  unfold Obligations.PaddedMessageFillsBlocks
  intro lr a msg hlr
  have hlen := length_paddedMessage (blockSize_cases a) (eight_le_lenReserve hlr a) msg
  refine ⟨List.take_left, ?_, ?_⟩
  · rw [hlen, Nat.mul_mod_left]
  · rw [length_blocksOf, hlen, Nat.mul_div_left _ (blockSize_pos a)]

/-- Settles O33: outside 112 to 119 both fit tests agree; inside, one padding ends a block earlier. -/
theorem lenReserveMattersOnlyFrom112To119 : Obligations.LenReserveMattersOnlyFrom112To119 := by
  unfold Obligations.LenReserveMattersOnlyFrom112To119
  intro lr lr' length hlr hlr' h8 h16
  refine ⟨paddingOf_congr (by rw [hlr.1, hlr'.1]), fun heq hin => ?_,
    fun hout => paddingOf_congr (by rw [h8, h16]; omega)⟩
  have hone := mod_add_length_paddingOf (lr := lr) (.inr rfl) (by omega) length
  have htwo := mod_add_length_paddingOf (lr := lr') (.inr rfl) (by omega) length
  rw [if_pos (by omega)] at hone
  rw [if_neg (by omega)] at htwo
  rw [heq] at hone
  omega

/-! ### The micro-operations and the lifecycle -/

/-- Everything a micro-operation that completes can have done. -/
theorem exec_micro_next {i : Instr} {s t : State} (hi : i.isHost = false) (h : exec i s = .next t) :
    t = runPadF lenReserve s ∨ t = runPadL s ∨ t = s.compress s.src ∨ t = runSer s
      ∨ ∃ w, t = s.expanded w := by
  cases i with
  | padf => exact .inl (execPadf_next.mp h).2
  | padl => exact .inr (.inl (execPadl_next.mp h).2)
  | cmp1 => exact .inr (.inr (.inl (execCmp1_next.mp h).2))
  | cmp2w32 => exact .inr (.inr (.inl (execCmp2w32_next.mp h).2))
  | cmp2w64 => exact .inr (.inr (.inl (execCmp2w64_next.mp h).2))
  | ser => exact .inr (.inr (.inr (.inl (execSer_next.mp h).2)))
  | sched1 | sched2w32 | sched2w64 =>
    cases h
    exact .inr (.inr (.inr (.inr ⟨_, rfl⟩)))
  | selectSha1 | selectSha224 | selectSha256 | selectSha384 | selectSha512 | init | update | finish => cases hi

/-- Settles O51: no `SELECT` is a micro-operation, so `alg` stays; none of the operations that one can be writes
the rest of the lifecycle. -/
theorem microOperationsKeepTheLifecycle : Obligations.MicroOperationsKeepTheLifecycle := by
  unfold Obligations.MicroOperationsKeepTheLifecycle
  intro i s t hi h
  have halg : t.alg = s.alg := by
    refine exec_alg_of_not_select ?_ h
    rintro a rfl
    rw [selectInstr_isHost] at hi
    cases hi
  obtain rfl | rfl | rfl | rfl | ⟨w, rfl⟩ := exec_micro_next hi h <;>
    exact ⟨rfl, rfl, rfl, rfl, halg, rfl⟩

end Sys2Proof.Machine
end

section
/-! ## The SHA-1 engine: schedule, rounds and one block (43_sha1_compression.md) -/

namespace Sys2Proof.Machine

/-! ### A list grown at its head, read from its end -/

section
variable {α : Type} (next : List α → α) (n : Nat)

theorem length_repeatStep_cons (start : List α) :
    (repeatStep (fun l => next l :: l) n start).length = start.length + n := by
  induction n with
  | zero => rfl
  | succ n ih => rw [repeatStep_succ, List.length_cons, ih, Nat.add_assoc]

/-- The words a list starts from stay its first words. -/
theorem getD_reverse_repeatStep_of_lt (first : List α) (d : α) {t : Nat} (ht : t < first.length) :
    (repeatStep (fun l => next l :: l) n first.reverse).reverse.getD t d = first.getD t d := by
  have hlen : first.reverse.length = first.length := List.length_reverse
  calc _ = first.reverse.getD (first.length - 1 - t) d := by
        have hgrown := getD_repeatStep_eq next first.reverse n 0 d (Nat.zero_le n) (first.length - 1 - t)
          (by omega)
        rw [show first.reverse.length + 0 - 1 - (first.length - 1 - t) = t by omega] at hgrown
        exact hgrown.symm
    _ = first.getD t d := by
        rw [List.getD_reverse _ (by omega), show first.length - 1 - (first.length - 1 - t) = t by omega]

end

/-! ### The schedule (43_sha1_compression.md R171, R172) -/

/-- The word that `sched1Next` adds. -/
def sched1Word (newestFirst : List Word32) : Word32 :=
  rotl (newestFirst.getD 2 0#32 ^^^ newestFirst.getD 7 0#32 ^^^ newestFirst.getD 13 0#32
      ^^^ newestFirst.getD 15 0#32) 1

theorem sched1Next_eq : sched1Next = fun l => sched1Word l :: l := rfl

theorem length_reverse_blockWords (w : Nat) (block : List Byte) : (blockWords w block).reverse.length = 16 := by
  rw [List.length_reverse, length_blockWords]

section
variable (block : List Byte)

theorem length_sched1 : (sched1 block).length = 80 := by
  rw [sched1, List.length_reverse, sched1Next_eq, length_repeatStep_cons,
    length_reverse_blockWords]

theorem getD_sched1_of_lt {t : Nat} (ht : t < 16) :
    (sched1 block).getD t 0#32 = beLoad 32 ((block.drop (4 * t)).take 4) := by
  rw [sched1, sched1Next_eq, getD_reverse_repeatStep_of_lt _ _ _ _ (by rwa [length_blockWords]),
    getD_blockWords _ _ ht]

/-- The words before word `t`, the newest first, are the schedule read backwards from there. -/
theorem getD_sched1_backwards {t i : Nat} (ht : 16 ≤ t) (ht' : t < 80) (hi : i < 16) :
    (repeatStep sched1Next (t - 16) (blockWords 32 block).reverse).getD i 0#32
      = (sched1 block).getD (t - (i + 1)) 0#32 := by
  have hlen := length_reverse_blockWords 32 block
  rw [sched1, sched1Next_eq, getD_repeatStep_eq _ _ (80 - 16) _ _ (by omega) i (by omega), hlen,
    show 16 + (t - 16) - 1 - i = t - (i + 1) by omega]

theorem getD_sched1_recurrence {t : Nat} (ht : 16 ≤ t) (ht' : t < 80) :
    (sched1 block).getD t 0#32
      = rotl ((sched1 block).getD (t - 3) 0#32 ^^^ (sched1 block).getD (t - 8) 0#32
          ^^^ (sched1 block).getD (t - 14) 0#32 ^^^ (sched1 block).getD (t - 16) 0#32) 1 := by
  have hlen := length_reverse_blockWords 32 block
  have hword : (sched1 block).getD t 0#32
      = sched1Word (repeatStep sched1Next (t - 16) (blockWords 32 block).reverse) := by
    rw [sched1, sched1Next_eq, getD_reverse_repeatStep _ _ _ _ _ (by omega) (by omega), hlen]
  rw [hword, sched1Word]
  simp (disch := omega) only [getD_sched1_backwards]

end

/-- Settles O36: the first words are the block's, and each later one is the recurrence on those before it. -/
theorem sched1FollowsRecurrence : Obligations.Sched1FollowsRecurrence := by
  unfold Obligations.Sched1FollowsRecurrence
  exact fun s => ⟨sched1 (s.block 64), rfl, length_sched1 _, fun _ => getD_sched1_of_lt _,
    fun _ => getD_sched1_recurrence _⟩

/-! ### The rounds (43_sha1_compression.md R174 to R177) -/

/-- The round constant of the `q`-th twenty rounds. -/
theorem k1At_of_range {t q : Nat} (hlo : 20 * q ≤ t) (hhi : t < 20 * (q + 1)) :
    k1At t = k1.getD q 0#32 := by
  rw [k1At, show t / 20 = q by omega]

section
variable {t : Nat} (b c d : Word32)

theorem f1_choose (ht : t < 20) : f1 t b c d = (b &&& c) ||| (~~~b &&& d) := if_pos ht

theorem f1_parity (ht : 20 ≤ t ∧ t < 40 ∨ 60 ≤ t) : f1 t b c d = b ^^^ c ^^^ d := by
  rcases ht with ⟨hlo, hhi⟩ | hlo
  · rw [f1, if_neg (by omega), if_pos hhi]
  · rw [f1, if_neg (by omega), if_neg (by omega), if_neg (by omega)]

theorem f1_majority (hlo : 40 ≤ t) (hhi : t < 60) :
    f1 t b c d = (b &&& c) ||| (b &&& d) ||| (c &&& d) := by
  rw [f1, if_neg (by omega), if_neg (by omega), if_pos hhi]

end

theorem round1_eq (t : Nat) (wt : Word32) (v : Words5) :
    round1 t wt v
      = ⟨rotl v.a 5 + f1 t v.b v.c v.d + v.e + k1At t + wt, v.a, rotl v.b 30, v.c, v.d⟩ := by
  simp only [round1, sumW_cons, sumW_nil, addW, BitVec.add_zero, BitVec.add_assoc]

/-- Settles O37: the four ranges of `t`, one round and the fold back. -/
theorem sha1RoundEquations : Obligations.Sha1RoundEquations := by
  unfold Obligations.Sha1RoundEquations
  intro t wt b c d v h
  refine ⟨fun hhi => ⟨f1_choose b c d hhi, ?_⟩,
    fun hlo hhi => ⟨f1_parity b c d (.inl ⟨hlo, hhi⟩), ?_⟩,
    fun hlo hhi => ⟨f1_majority b c d hlo hhi, ?_⟩,
    fun hlo hhi => ⟨f1_parity b c d (.inr hlo), ?_⟩, round1_eq t wt v, rfl⟩
  · exact k1At_of_range (q := 0) (Nat.zero_le t) hhi
  · exact k1At_of_range (q := 1) hlo hhi
  · exact k1At_of_range (q := 2) hlo hhi
  · exact k1At_of_range (q := 3) hlo hhi

/-! ### One block (43_sha1_compression.md R173, R178) -/

/-- The rounds on one more schedule word: one more round, last. -/
theorem rounds1_append_word (t : Nat) (ws : List Word32) (w : Word32) (v : Words5) :
    rounds1 t (ws ++ [w]) v = round1 (t + ws.length) w (rounds1 t ws v) := by
  induction ws generalizing t v with
  | nil => rfl
  | cons x xs ih =>
    rw [List.cons_append, rounds1, ih, rounds1, List.length_cons, Nat.add_assoc, Nat.add_comm 1]

/-- The working variables after the first `t` rounds of a block, loaded from `H`. -/
def work1After (h : Words5) (block : List Byte) (t : Nat) : Words5 :=
  rounds1 0 ((sched1 block).take t) h

section
variable (h : Words5) (block : List Byte)

theorem work1After_succ {t : Nat} (ht : t < 80) :
    work1After h block (t + 1) = round1 t ((sched1 block).getD t 0#32) (work1After h block t) := by
  have hlen : t < (sched1 block).length := by rwa [length_sched1]
  rw [work1After, List.take_succ_eq_append_getElem hlen, rounds1_append_word, List.length_take_of_le hlen.le,
    Nat.zero_add, List.getD_eq_getElem _ _ hlen, work1After]

theorem work1After_all : work1After h block 80 = work1 h block := by
  rw [work1After, List.take_of_length_le (length_sched1 block).le, work1]

end

/-- What the compression of the selected block writes where SHA-1 is selected. -/
theorem compress_selected_of_sha1 {s : State} {h : Words5} (hs : s.algH = .sha1 h) :
    s.compress s.src = { s with
      algH := .sha1 (fold1 h (work1 h (s.block 64))), sched := .w32 (sched1 (s.block 64)),
      work := .vars5 (work1 h (s.block 64)) } := by
  rw [State.compress, hs]
  rfl

/-- Settles O38: the rounds are those of `work1After`, one schedule word each. -/
theorem cmp1CompressesOneBlock : Obligations.Cmp1CompressesOneBlock := by
  unfold Obligations.Cmp1CompressesOneBlock
  intro s h hs
  have hsel : s.alg = some .sha1 := by rw [State.alg, hs, AlgH.alg]
  refine ⟨work1After h (s.block 64), rfl, fun t => work1After_succ h _, ?_⟩
  rw [work1After_all]
  exact execCmp1_next.mpr ⟨hsel, (compress_selected_of_sha1 hs).symm⟩

end Sys2Proof.Machine
end

section
/-! ## The SHA-2 engines: schedule, rounds and one block, in either width (44_sha2_compression.md) -/

namespace Sys2Proof.Machine

/-! ### The schedule (44_sha2_compression.md R191, R192) -/

section
variable {w : Nat} (p : Sha2Width w)

/-- The word that `sched2Next` adds. -/
def sched2Word (newestFirst : List (BitVec w)) : BitVec w :=
  smallSigma p.smallSigma1 (newestFirst.getD 1 0#w) + newestFirst.getD 6 0#w
    + smallSigma p.smallSigma0 (newestFirst.getD 14 0#w) + newestFirst.getD 15 0#w

theorem sched2Next_eq : sched2Next p = fun l => sched2Word p l :: l := by
  funext l
  simp only [sched2Next, sched2Word, sumW_cons, sumW_nil, addW, BitVec.add_zero, BitVec.add_assoc]

variable (block : List Byte)

theorem length_sched2 (hp : 16 ≤ p.rounds) : (sched2 p block).length = p.rounds := by
  rw [sched2, List.length_reverse, sched2Next_eq, length_repeatStep_cons, length_reverse_blockWords,
    Nat.add_sub_cancel' hp]

theorem getD_sched2_of_lt {t : Nat} (ht : t < 16) :
    (sched2 p block).getD t 0#w = beLoad w ((block.drop (w / 8 * t)).take (w / 8)) := by
  rw [sched2, sched2Next_eq, getD_reverse_repeatStep_of_lt _ _ _ _ (by rwa [length_blockWords]),
    getD_blockWords _ _ ht]

/-- The words before word `t`, the newest first, are the schedule read backwards from there. -/
theorem getD_sched2_backwards {t i : Nat} (ht : 16 ≤ t) (ht' : t < p.rounds) (hi : i < 16) :
    (repeatStep (sched2Next p) (t - 16) (blockWords w block).reverse).getD i 0#w
      = (sched2 p block).getD (t - (i + 1)) 0#w := by
  have hlen := length_reverse_blockWords w block
  rw [sched2, sched2Next_eq, getD_repeatStep_eq _ _ (p.rounds - 16) _ _ (by omega) i (by omega), hlen,
    show 16 + (t - 16) - 1 - i = t - (i + 1) by omega]

theorem getD_sched2_recurrence {t : Nat} (ht : 16 ≤ t) (ht' : t < p.rounds) :
    (sched2 p block).getD t 0#w
      = smallSigma p.smallSigma1 ((sched2 p block).getD (t - 2) 0#w) + (sched2 p block).getD (t - 7) 0#w
        + smallSigma p.smallSigma0 ((sched2 p block).getD (t - 15) 0#w)
        + (sched2 p block).getD (t - 16) 0#w := by
  have hlen := length_reverse_blockWords w block
  have hword : (sched2 p block).getD t 0#w
      = sched2Word p (repeatStep (sched2Next p) (t - 16) (blockWords w block).reverse) := by
    rw [sched2, sched2Next_eq, getD_reverse_repeatStep _ _ _ _ _ (by omega) (by omega), hlen]
  rw [hword, sched2Word]
  simp (disch := omega) only [getD_sched2_backwards]

end

/-- Settles O39: in each width the first words are the block's, and each later one is the recurrence on those
before it. -/
theorem sched2FollowsRecurrence : Obligations.Sched2FollowsRecurrence := by
  unfold Obligations.Sched2FollowsRecurrence
  intro s
  constructor
  · exact ⟨sched2 width32 (s.block 64), rfl, length_sched2 width32 _ (by decide),
      fun _ => getD_sched2_of_lt width32 _, fun _ => getD_sched2_recurrence width32 _⟩
  · exact ⟨sched2 width64 (s.block 128), rfl, length_sched2 width64 _ (by decide),
      fun _ => getD_sched2_of_lt width64 _, fun _ => getD_sched2_recurrence width64 _⟩

/-! ### The functions and the constants of a round (44_sha2_compression.md R193 to R197) -/

/-- A logical shift by `r` divides by `2^r` (40_word_arithmetic.md R114). -/
theorem toNat_shr {w : Nat} (x : BitVec w) (r : Nat) : (shr x r).toNat = x.toNat / 2 ^ r := by
  rw [shr, BitVec.toNat_ushiftRight, Nat.shiftRight_eq_div_pow]

/-- Settles O40: the amounts are those of `width32` and `width64`. -/
theorem sha2SigmaFunctions : Obligations.Sha2SigmaFunctions := by
  unfold Obligations.Sha2SigmaFunctions
  exact ⟨fun x => ⟨rfl, rfl, rfl, rfl, toNat_shr x⟩, fun x => ⟨rfl, rfl, rfl, rfl, toNat_shr x⟩⟩

/-- Settles O56: the tables are the model's `k256` and `k512`, in rows of another length. -/
theorem roundConstantValues : Obligations.RoundConstantValues := by
  unfold Obligations.RoundConstantValues
  exact ⟨rfl, rfl, rfl, rfl, rfl, rfl⟩

/-! ### The rounds (44_sha2_compression.md R195, R199, R200) -/

section
variable {w : Nat} (p : Sha2Width w)

theorem temp1_eq (t : Nat) (wt : BitVec w) (v : Words8 w) :
    temp1 p t wt v
      = v.h + bigSigma p.bigSigma1 v.e + ((v.e &&& v.f) ^^^ (~~~v.e &&& v.g)) + p.constants.getD t 0#w + wt := by
  simp only [temp1, ch, sumW_cons, sumW_nil, addW, BitVec.add_zero, BitVec.add_assoc]

theorem temp2_eq (v : Words8 w) :
    temp2 p v = bigSigma p.bigSigma0 v.a + ((v.a &&& v.b) ^^^ (v.a &&& v.c) ^^^ (v.b &&& v.c)) := rfl

theorem round2_eq (t : Nat) (wt : BitVec w) (v : Words8 w) :
    round2 p t wt v
      = ⟨temp1 p t wt v + temp2 p v, v.a, v.b, v.c, v.d + temp1 p t wt v, v.e, v.f, v.g⟩ := rfl

/-- The rounds on one more schedule word: one more round, last. -/
theorem rounds2_append_word (t : Nat) (ws : List (BitVec w)) (wt : BitVec w) (v : Words8 w) :
    rounds2 p t (ws ++ [wt]) v = round2 p (t + ws.length) wt (rounds2 p t ws v) := by
  induction ws generalizing t v with
  | nil => rfl
  | cons x xs ih =>
    rw [List.cons_append, rounds2, ih, rounds2, List.length_cons, Nat.add_assoc, Nat.add_comm 1]

end

/-- Settles O41: the two sums are the temporaries of the round. -/
theorem sha2RoundEquations : Obligations.Sha2RoundEquations := by
  unfold Obligations.Sha2RoundEquations
  intro w p t wt v h t1 t2 ht1 ht2
  rw [← temp1_eq] at ht1
  rw [← temp2_eq] at ht2
  subst ht1 ht2
  exact ⟨round2_eq p t wt v, rfl⟩

/-! ### One block (44_sha2_compression.md R190, R198, R201, R202) -/

section
variable {w : Nat} (p : Sha2Width w) (h : Words8 w) (block : List Byte)

/-- The working variables after the first `t` rounds of a block, loaded from `H`. -/
def work2After (t : Nat) : Words8 w := rounds2 p 0 ((sched2 p block).take t) h

theorem work2After_zero : work2After p h block 0 = h := rfl

variable (hp : 16 ≤ p.rounds)
include hp

theorem work2After_succ {t : Nat} (ht : t < p.rounds) :
    work2After p h block (t + 1) = round2 p t ((sched2 p block).getD t 0#w) (work2After p h block t) := by
  have hlen : t < (sched2 p block).length := by rwa [length_sched2 p block hp]
  rw [work2After, List.take_succ_eq_append_getElem hlen, rounds2_append_word, List.length_take_of_le hlen.le,
    Nat.zero_add, List.getD_eq_getElem _ _ hlen, work2After]

theorem work2After_rounds : work2After p h block p.rounds = work2 p h block := by
  rw [work2After, List.take_of_length_le (length_sched2 p block hp).le, work2]

end

/-- What the compression of the selected block writes where SHA-224 or SHA-256 is selected. -/
theorem compress_selected_of_width32 {s : State} {h : Words8 32}
    (hs : s.algH = .sha224 h ∨ s.algH = .sha256 h) :
    s.compress s.src = { s with
      algH := if s.alg = some .sha224 then .sha224 (fold2 h (work2 width32 h (s.block 64)))
        else .sha256 (fold2 h (work2 width32 h (s.block 64))),
      sched := .w32 (sched2 width32 (s.block 64)), work := .vars8w32 (work2 width32 h (s.block 64)) } := by
  rcases hs with hs | hs <;> rw [State.compress, State.alg, hs] <;> rfl

/-- What the compression of the selected block writes where SHA-384 or SHA-512 is selected. -/
theorem compress_selected_of_width64 {s : State} {h : Words8 64}
    (hs : s.algH = .sha384 h ∨ s.algH = .sha512 h) :
    s.compress s.src = { s with
      algH := if s.alg = some .sha384 then .sha384 (fold2 h (work2 width64 h (s.block 128)))
        else .sha512 (fold2 h (work2 width64 h (s.block 128))),
      sched := .w64 (sched2 width64 (s.block 128)), work := .vars8w64 (work2 width64 h (s.block 128)) } := by
  rcases hs with hs | hs <;> rw [State.compress, State.alg, hs] <;> rfl

/-- Settles O42: the rounds are those of `work2After`, one schedule word each. -/
theorem cmp2Width32CompressesOneBlock : Obligations.Cmp2Width32CompressesOneBlock := by
  unfold Obligations.Cmp2Width32CompressesOneBlock
  intro s h hs
  have hsel : s.alg = some .sha224 ∨ s.alg = some .sha256 :=
    hs.imp (congrArg AlgH.alg) (congrArg AlgH.alg)
  have hall : work2After width32 h (s.block 64) 64 = work2 width32 h (s.block 64) :=
    work2After_rounds width32 h _ (by decide)
  refine ⟨work2After width32 h (s.block 64), work2After_zero ..,
    fun t => work2After_succ width32 h _ (by decide), ?_⟩
  rw [hall]
  exact execCmp2w32_next.mpr ⟨hsel, (compress_selected_of_width32 hs).symm⟩

/-- Settles O43: the rounds are those of `work2After`, one schedule word each. -/
theorem cmp2Width64CompressesOneBlock : Obligations.Cmp2Width64CompressesOneBlock := by
  unfold Obligations.Cmp2Width64CompressesOneBlock
  intro s h hs
  have hsel : s.alg = some .sha384 ∨ s.alg = some .sha512 :=
    hs.imp (congrArg AlgH.alg) (congrArg AlgH.alg)
  have hall : work2After width64 h (s.block 128) 80 = work2 width64 h (s.block 128) :=
    work2After_rounds width64 h _ (by decide)
  refine ⟨work2After width64 h (s.block 128), work2After_zero ..,
    fun t => work2After_succ width64 h _ (by decide), ?_⟩
  rw [hall]
  exact execCmp2w64_next.mpr ⟨hsel, (compress_selected_of_width64 hs).symm⟩

end Sys2Proof.Machine
end

section
/-! ## The serializer: the bytes of `OUT` and of the digest (45_digest_serializer.md) -/

namespace Sys2Proof.Machine

/-- Settles O44, by the bytes that the serializer writes. -/
theorem serCopiesDigestPrefix : Obligations.SerCopiesDigestPrefix := by
  unfold Obligations.SerCopiesDigestPrefix
  intro a s ha hw
  refine ⟨runSer s, execSer_next.mpr ⟨⟨a, ha⟩, rfl⟩, rfl, fun i => ?_⟩
  rw [runSer_out, read_writeBytes_output ha hw]

/-- Byte `j` of word `i` in a row of serialized words, most significant first (45_digest_serializer.md R222). -/
theorem getD_serializeWords {w k i j : Nat} {words : List (BitVec w)} (hi : i < words.length) (hj : j < k) :
    (serializeWords k words).getD (k * i + j) 0#8
      = BitVec.ofNat 8 ((words.getD i 0#w).toNat / 2 ^ (8 * (k - 1 - j))) := by
  induction words generalizing i with
  | nil => cases hi
  | cons word words ih =>
    have hcons : serializeWords k (word :: words) = beStore k word ++ serializeWords k words := rfl
    rw [hcons]
    cases i with
    | zero =>
      rw [Nat.mul_zero, Nat.zero_add, List.getD_append _ _ _ _ (by rwa [length_beStore]), getD_beStore word hj,
        List.getD_cons_zero]
    | succ i =>
      have hpast : k * (i + 1) + j - k = k * i + j := by rw [Nat.mul_succ]; omega
      rw [List.getD_append_right _ _ _ _ (by rw [length_beStore, Nat.mul_succ]; omega), length_beStore, hpast,
        ih (Nat.lt_of_succ_lt_succ hi), List.getD_cons_succ]

/-- No variant cuts inside a word: the digest is a whole number of words (45_digest_serializer.md R221, R223). -/
theorem wordBytes_mul_wordsSerialized (a : Alg) : wordBytes a * wordsSerialized a = digestSize a := by
  cases a with
  | sha1 | sha224 | sha256 | sha384 | sha512 => rfl

/-- An element before the cut is that of the whole list. -/
theorem getD_take_of_lt {α : Type} {l : List α} {i n : Nat} {d : α} (h : i < n) :
    (l.take n).getD i d = l.getD i d := by
  rw [List.getD, List.getD, List.getElem?_take_of_lt h]

/-- Byte `j` of word `i` in the digest of a variant, for each word that the variant serializes
(45_digest_serializer.md R221 to R223). -/
theorem getD_digestOfWords {w i j : Nat} (a : Alg) {words : List (BitVec w)} (hi : i < words.length)
    (hia : i < wordsSerialized a) (hj : j < wordBytes a) :
    (digestOfWords a words).getD (wordBytes a * i + j) 0#8
      = BitVec.ofNat 8 ((words.getD i 0#w).toNat / 2 ^ (8 * (wordBytes a - 1 - j))) := by
  have hkept : wordBytes a * i + j < digestSize a := by
    calc wordBytes a * i + j < wordBytes a * (i + 1) := by rw [Nat.mul_succ]; omega
      _ ≤ wordBytes a * wordsSerialized a := Nat.mul_le_mul_left _ hia
      _ = digestSize a := wordBytes_mul_wordsSerialized a
  have hlen : i < (words.take (wordsSerialized a)).length := by
    rw [List.length_take]; exact Nat.lt_min.mpr ⟨hia, hi⟩
  rw [digestOfWords, getD_take_of_lt hkept, getD_serializeWords hlen hj, getD_take_of_lt hia]

/-- Settles O45, by the bytes of each serialized word. -/
theorem digestIsBigEndianWords : Obligations.DigestIsBigEndianWords := by
  unfold Obligations.DigestIsBigEndianWords
  refine ⟨fun h => ⟨length_digest (a := .sha1) rfl, fun i j hi hj => ?_⟩,
    fun h => ⟨length_digest (a := .sha224) rfl, length_digest (a := .sha256) rfl,
      fun i j hi hj => ⟨?_, fun hi7 => ?_⟩⟩,
    fun h => ⟨length_digest (a := .sha384) rfl, length_digest (a := .sha512) rfl,
      fun i j hi hj => ⟨?_, fun hi6 => ?_⟩⟩⟩
  · exact getD_digestOfWords .sha1 hi hi hj
  · exact getD_digestOfWords .sha256 hi hi hj
  · exact getD_digestOfWords .sha224 hi hi7 hj
  · exact getD_digestOfWords .sha512 hi hi hj
  · exact getD_digestOfWords .sha384 hi hi6 hj

end Sys2Proof.Machine
end

section
/-! ## The selector: the context `SELECT` constructs, and the initial vectors (46_selector_facade.md) -/

namespace Sys2Proof.Machine

/-- Settles O10: `SELECT` completes in every state with `initContext` of its variant, whose fields are those the
statement lists. -/
theorem selectConstructsContext : Obligations.SelectConstructsContext := by
  unfold Obligations.SelectConstructsContext
  intro a s
  exact exec_select a s

/-- Settles O12: the words of each variant are those of its own table (R231 to R235). -/
theorem initialVectorValues : Obligations.InitialVectorValues := by
  unfold Obligations.InitialVectorValues
  exact ⟨rfl, rfl, rfl, rfl, rfl⟩

end Sys2Proof.Machine
end

section
/-! ## The failure of `FINISH` and the hardware reset (60_exceptions.md R241, R248, 70_reset_and_hazards.md R270) -/

namespace Sys2Proof.Machine

/-- What a failed `FINISH` may write: the error entry leaves the rest of the context, `OUT` included, alone
(60_exceptions.md R248). -/
theorem finalize_overflow_frame {lr : Config.LenReserve} (outlen : Nat) {s : State} {a : Alg}
    (ha : s.alg = some a) (hc : 2 ^ 61 ≤ s.count.toNat) :
    finalize lr outlen s = { s with
      algH := (finalize lr outlen s).algH, count := (finalize lr outlen s).count,
      fill := (finalize lr outlen s).fill, buf := (finalize lr outlen s).buf, phase := .failed, res := .err,
      padReport := (finalize lr outlen s).padReport, src := (finalize lr outlen s).src,
      outlen := (finalize lr outlen s).outlen, freeCtr := (finalize lr outlen s).freeCtr } := by
  rw [finalize_overflow ha hc]
  rfl

/-- `FINISH` answers ERR from `count = 2^61` on, and OK below it (60_exceptions.md R241). -/
theorem finalize_res_err_iff {lr : Config.LenReserve} (outlen : Nat) {s : State} {a : Alg}
    (ha : s.alg = some a) : (finalize lr outlen s).res = .err ↔ 2 ^ 61 ≤ s.count.toNat := by
  constructor
  · intro herr
    by_contra hc
    have hok := (finalize_phase_res (lr := lr) outlen ha (Nat.lt_of_not_le hc)).2
    exact absurd (hok.symm.trans herr) (by decide)
  · intro hc
    rw [finalize_overflow ha hc]
    rfl

/-- Settles O25: where the padding engine reports the overflow, `FINISH` is the error entry, else it answers OK. -/
theorem finishFailsExactlyOnOverflow : Obligations.FinishFailsExactlyOnOverflow := by
  unfold Obligations.FinishFailsExactlyOnOverflow
  intro a outlen s hp ha
  refine ⟨finalize lenReserve outlen s, execFinish_next.mpr ⟨hp, ⟨a, ha⟩, rfl⟩,
    finalize_res_err_iff outlen ha, fun hc => ⟨?_, (finalize_alg _ _ ha).trans ha,
      finalize_overflow_frame outlen ha hc⟩⟩
  rw [finalize_overflow ha hc]
  rfl

/-- Settles O52: the reset leaves `phase` UNSEL, in which `legalPhases` refuses the three commands, and `SELECT`
completes in every state. -/
theorem resetLeavesOnlySelectLegal : Obligations.ResetLeavesOnlySelectLegal := by
  unfold Obligations.ResetLeavesOnlySelectLegal
  intro s rest hpending
  obtain ⟨hinit, -, hupdate, -, -, -, hfinish, -⟩ := legalPhases (hardwareReset (s.waiting rest))
  exact ⟨_, stepBy_reset hpending, rfl, rfl, rfl, hinit rfl, fun n => ⟨hupdate n rfl, hfinish n rfl⟩,
    fun a => ⟨_, exec_select a _, rfl, initial_alg a⟩⟩

end Sys2Proof.Machine
end
